-- ==== Sys2Proof/Word.lean ====
section
/-! DEFINITION. The widths of the core: the 64-bit word, the byte, the 32-bit operand field, the offset inside the CSR
window. All values are unsigned (R8), bit 0 is the least significant (R7). -/

namespace Sys2Proof

/-- A 64-bit word: a CSR, a row word, a register of the block file (R6 `WORD`). -/
abbrev Word := BitVec 64

/-- A byte of memory (R36). -/
abbrev Byte := BitVec 8

/-- A 32-bit operand field: `DIM.N`, `STRIDE.S`, `BI.I`, `BJ.J` (R6 `NW`, `SW`, `CW`). -/
abbrev Field := BitVec 32

/-- A byte offset inside the 128-byte CSR window (R15). -/
abbrev CsrOffset := BitVec 7

/-- Byte g of a word: bits `8g+7..8g` (R7). -/
def byteOf (w : Word) (g : Nat) : Byte := w.extractLsb' (8 * g) 8

end Sys2Proof
end

