-- ==== Sys2Proof/Config.lean ====
section
/-! DEFINITION. What the specification fixes once (R6) and the values it leaves open: the free values, opaque constants of
which nothing can be proved. -/

namespace Sys2Proof.Config

/-- `BS`, the block side in bits (R6). -/
def blockSize : Nat := 64

/-- `ROWB`, the bytes of one block row, `BS/8` (R6). -/
def rowBytes : Nat := 8

/-- The default of `AW`, the address width of the memory port (R6, D5). The width a machine has is `State.aw`. -/
def defaultAW : Nat := 64

/-- What a 64-bit register holds when the specification leaves it unspecified (R35, R108; S1, S2): a free value, one for
every draw and every register. Log 6, log 7. -/
opaque freeWord (draw register : Nat) : Word

/-- What a byte of the footprint of an abandoned command holds after a reset (R121, S3): a free value, one for every draw
and every address. Log 6. -/
opaque freeByte (draw address : Nat) : Byte

end Sys2Proof.Config
end

