-- ==== Sys2Proof/Syntax.lean ====
section
/-! DEFINITION. The commands (one constructor a row of spec/opcode_table.json), the fields of a command word (R54) and the
names of the CSRs (R16). -/

namespace Sys2Proof

/-- The eight commands of the BMR command set, version 1 (R3, R55). A command carries no operand: all are CSRs (R57). -/
inductive Instr where
  /-- `NOP`: do nothing (R92). -/
  | nop
  /-- `FREV`: full bit reverse of a word (R64). -/
  | frev
  /-- `BREV`: byte-local bit reverse of a word (R65). -/
  | brev
  /-- `BADDR`: compute a block offset (R77). -/
  | baddr
  /-- `TPOSE`: butterfly transpose of one block (R71). -/
  | tpose
  /-- `ROTBLK`: rotate one block 90 degrees clockwise (R72). -/
  | rotblk
  /-- `CYCLE4`: one 4-cycle exchange of phase 1 (R83). -/
  | cycle4
  /-- `ROTMAT`: rotate the whole matrix 90 degrees clockwise (R87). -/
  | rotmat
deriving DecidableEq, Repr

/-- A command word in its two fields: `RSVD` in bits 63..4, `OP` in bits 3..0 (R54). -/
structure CommandWord where
  rsvd : BitVec 60
  op : BitVec 4
deriving DecidableEq, Repr

/-- The ten CSRs (R16). -/
inductive Csr where
  | cmd | status | dim | base | stride | bi | bj | operand | result | faultAddr
deriving DecidableEq, Repr

end Sys2Proof
end

