-- ==== Sys2Proof/Machine/State.lean ====
section
/-! DEFINITION. Everything the specification gives the core (R15 to R35), the memory it reaches (R36), the parameters the
model takes (R6), and, as plain data, what the outside world is about to do (R95). -/

namespace Sys2Proof.Machine

/-- The outcome of a command (R102). -/
inductive ErrCode where
  /-- 0x00: success. -/
  | none
  /-- 0x01: `RSVD ≠ 0` or `OP ≥ 8` (R104). -/
  | illegalCommand
  /-- 0x02: `N = 0` or `N % 64 ≠ 0` (R105). -/
  | invalidDimension
  /-- 0x03: `STRIDE.S < N/8` (R106). -/
  | invalidStride
  /-- 0x04: `BI.I ≥ N/64` or `BJ.J ≥ N/64` (R107). -/
  | coordRange
  /-- 0x05: `MemOk` refused an access (R108). -/
  | busError
deriving DecidableEq, Repr

/-- The phase of `ROTMAT` (R30 `PH`). -/
inductive Phase where
  /-- Phase 1: block relocation (R84). -/
  | relocation
  /-- Phase 2: in-block rotation (R86). -/
  | inBlock
deriving DecidableEq, Repr

/-- The FSM state (R30, R94). The r of `LOAD(r)`, `STORE(r)` and `CYC(r, s)` is `State.row` (R98), the s of `CYC` is held
here (R30: "the access index inside the current row operation"). -/
inductive Fsm where
  | idle
  | check
  | load
  | xform
  | store
  | cyc (access : Fin 8)
  | complete (code : ErrCode)
deriving DecidableEq, Repr

/-- The kind of a memory access (R43). -/
inductive AccessKind where
  | read
  | write
deriving DecidableEq, Repr

/-- Accesses the platform refuses: those of this kind whose start address lies in `first..last` (R43). -/
structure RefusedRange where
  kind : AccessKind
  first : Nat
  last : Nat
deriving DecidableEq, Repr

/-- One atomic transition of the model (R95). -/
inductive Event where
  /-- The core takes the step of its FSM state. -/
  | core
  /-- `CsrRead(off)` (R15, R29). -/
  | csrRead (off : CsrOffset)
  /-- `CsrWrite(off, v)` (R15, R28). -/
  | csrWrite (off : CsrOffset) (v : Word)
  /-- The host, or another agent, reads `count` bytes from address `a` (R53, R95). -/
  | memRead (a count : Nat)
  /-- The host, or another agent, writes these bytes from address `a` on (R53, R95). -/
  | memWrite (a : Nat) (bytes : List Byte)
  /-- `wait`: read `STATUS` until `BUSY` is 0 (R58). -/
  | wait
  /-- The reset input is asserted (R120). -/
  | reset
deriving DecidableEq, Repr

/-- Memory as address and byte pairs: addresses strictly rising, no byte listed that equals what an unlisted address
reads as (`Memory.wf`). -/
abbrev Memory := List Host.Cell

/-- Why a step stops. No rule of the specification stops the core: its errors are outcome codes of a command (R102). -/
inductive Fault where
  /-- Raised by a command's meaning, and by the step of an illegal word, in an FSM state that this command never enters (no
  transition of R96 to R98 leads to it). Safe: no run from reset reaches it. Log 10. -/
  | strayState
  /-- Raised by a memory access of the host to a byte outside the `2^AW` bytes that exist (R36). Safe. Log 11. -/
  | outsideAddressSpace
deriving DecidableEq, Repr

/-- Why a step has no meaning. -/
inductive Refusal where
  /-- Raised by `exec` for an instruction that has no meaning. No arm of this model does. Safe. -/
  | notModelled (mnemonic : String)
  /-- Raised by a memory access of the host, or of another agent, to a byte of the running command's footprint: the model
  gives them no such access while `BUSY = 1` (R127, S11). Safe. Log 11. -/
  | footprintBusy
deriving DecidableEq, Repr

/-- The state of the model. -/
structure State where
  /-- `STATUS.BUSY` (R23). -/
  busy : Bool
  /-- `STATUS.DONE` (R24). -/
  done : Bool
  /-- `STATUS.OVR` (R25). -/
  ovr : Bool
  /-- `STATUS.ERRCODE` (R26). -/
  errcode : BitVec 8
  /-- `DIM.N` (R17). -/
  dimN : Field
  /-- `BASE.ADDR` (R18), its bits from AW up 0 (R16). -/
  baseAddr : Word
  /-- `STRIDE.S` (R19). -/
  strideS : Field
  /-- `BI.I` (R20). -/
  biI : Field
  /-- `BJ.J` (R20). -/
  bjJ : Field
  /-- `OPERAND.X` (R21). -/
  operandX : Word
  /-- `RESULT.Y` (R22). -/
  resultY : Word
  /-- `FAULTADDR.ADDR` (R27), its bits from AW up 0 (R16). -/
  faultAddr : Word
  /-- The FSM state (R30, R94). -/
  fsm : Fsm
  /-- `op`, the issued command word (R30, R93). -/
  op : Word
  /-- `CI` (R30). -/
  ci : Field
  /-- `CJ` (R30). -/
  cj : Field
  /-- `ROW` (R30, R98). -/
  row : BitVec 6
  /-- `BA` (R30), its bits from AW up 0. -/
  ba : Word
  /-- `PH` (R30). -/
  ph : Phase
  /-- `BRF[0..63]` (R31). -/
  brf : Vector Word 64
  /-- `TMP` (R31). -/
  tmp : Word
  /-- `DR` (R31). -/
  dr : Word
  /-- The memory behind the memory master port (R36). -/
  mem : Memory
  /-- `AW`, the address width: a parameter of the model (R6, D5). No transition changes it. Log 2. -/
  aw : Nat
  /-- `MemOk`, as the accesses it refuses: a parameter of the model (R43, D37). No transition changes it. Log 3. -/
  refusals : List RefusedRange
  /-- The model's own: the transitions to come, the next one first. Log 1. -/
  schedule : List Event
  /-- The model's own: what the last `CsrRead` returned. Log 12. -/
  csrData : Word
  /-- The model's own: what the last memory read from outside the core returned. Log 12. -/
  memData : List Byte
  /-- The model's own: what `RESULT.Y` held when the running command was issued (R33, R126). Log 8. -/
  resultHeld : Word
  /-- The model's own: what `FAULTADDR.ADDR` held when the running command was issued (R33, R126). Log 8. -/
  faultHeld : Word
  /-- The model's own: how many times free values have been drawn (R35, R108, R121). Log 6, log 7. -/
  draws : Nat
deriving DecidableEq, Repr

/-- The machine after reset: every CSR field 0, the FSM idle (R34), the internal registers at values the model names (R35
leaves them unspecified; log 5), memory with nothing listed (log 4), the parameters at their defaults (log 2, log 3). -/
def State.reset : State where
  busy := false
  done := false
  ovr := false
  errcode := 0
  dimN := 0
  baseAddr := 0
  strideS := 0
  biI := 0
  bjJ := 0
  operandX := 0
  resultY := 0
  faultAddr := 0
  fsm := .idle
  op := 0
  ci := 0
  cj := 0
  row := 0
  ba := 0
  ph := .relocation
  brf := Vector.replicate 64 0
  tmp := 0
  dr := 0
  mem := []
  aw := Config.defaultAW
  refusals := []
  schedule := []
  csrData := 0
  memData := []
  resultHeld := 0
  faultHeld := 0
  draws := 0

end Sys2Proof.Machine
end

