-- ==== Sys2Proof/Machine/Ops.lean ====
section
/-! DEFINITION. The shared operations: bytes and words of memory (R36, R40, R41), the platform's answer (R43), raising an
error and completing a command (R97, R103, R108), one checked access of the core (R95). -/

namespace Sys2Proof.Machine

/-- What a byte that memory does not list reads as. The specification gives memory no contents (R52): the model's choice,
log 4. -/
def unlistedByte : Byte := 0

/-- The byte at an address. -/
def Memory.readByte : Memory → Nat → Byte
  | [], _ => unlistedByte
  | (k, b) :: rest, a => if k = a then b else Memory.readByte rest a

/-- A cell put in its place by address. -/
def Memory.insertCell : Memory → Nat → Byte → Memory
  | [], a, b => [(a, b)]
  | (k, c) :: rest, a, b => if a < k then (a, b) :: (k, c) :: rest else (k, c) :: Memory.insertCell rest a b

/-- Memory without an address. -/
def Memory.eraseCell (m : Memory) (a : Nat) : Memory := m.filter fun c => c.1 != a

/-- One byte written: an address whose byte is what an unlisted address reads as is not listed. -/
def Memory.writeByte (m : Memory) (a : Nat) (b : Byte) : Memory :=
  if b = unlistedByte then m.eraseCell a else (m.eraseCell a).insertCell a b

/-- Bytes written one after the other. -/
def Memory.writeCells (m : Memory) (cells : List Host.Cell) : Memory :=
  cells.foldl (fun m c => m.writeByte c.1 c.2) m

/-- The canonical form: addresses strictly rising, no byte listed that an unlisted address would read as. -/
abbrev Memory.wf (m : Memory) : Prop := m.Pairwise (fun c d => c.1 < d.1) ∧ ∀ c ∈ m, c.2 ≠ unlistedByte

/-- `trunc_AW` of a number (R8, R44). -/
def State.trunc (s : State) (n : Nat) : Nat := n % 2 ^ s.aw

/-- `trunc_AW` of a number, as the contents of a 64-bit CSR or register: its bits from AW up are 0 (R16). -/
def State.truncWord (s : State) (n : Nat) : Word := BitVec.ofNat 64 (s.trunc n)

/-- The byte at an address of the address space. -/
def State.readByte (s : State) (a : Nat) : Byte := s.mem.readByte a

/-- The 8 addresses of an access that starts at `a`, in order: they wrap at `2^AW` (R40, R41, R44). -/
def State.accessBytes (s : State) (a : Nat) : List Nat := (List.range 8).map fun g => s.trunc (a + g)

/-- `MemRead(a, 8)`: little-endian (R40). -/
def State.memRead (s : State) (a : Nat) : Word :=
  let b (g : Nat) : Byte := s.readByte (s.trunc (a + g))
  b 7 ++ b 6 ++ b 5 ++ b 4 ++ b 3 ++ b 2 ++ b 1 ++ b 0

/-- `MemWrite(a, 8, v)`: byte g of `v` goes to `trunc_AW(a + g)` (R41). -/
def State.memWrite (s : State) (a : Nat) (v : Word) : State :=
  { s with mem := s.mem.writeCells ((List.range 8).map fun g => (s.trunc (a + g), byteOf v g)) }

/-- Does this range refuse an access? -/
def RefusedRange.covers (r : RefusedRange) (kind : AccessKind) (a : Nat) : Bool :=
  r.kind == kind && decide (r.first ≤ a) && decide (a ≤ r.last)

/-- `MemOk(kind, a) = ok` (R43): the platform accepts the access that starts at `a`. -/
def State.memOk (s : State) (kind : AccessKind) (a : Nat) : Bool := !s.refusals.any fun r => r.covers kind a

/-- The value of an outcome code (R102). -/
def ErrCode.bits : ErrCode → BitVec 8
  | .none => 0x00
  | .illegalCommand => 0x01
  | .invalidDimension => 0x02
  | .invalidStride => 0x03
  | .coordRange => 0x04
  | .busError => 0x05

/-- `raise Err(code)` and `complete(code)`: the FSM moves to `COMPLETE(code)` (R96, R103). -/
def raise (code : ErrCode) (s : State) : State := { s with fsm := .complete code }

/-- The `COMPLETE(code)` step ends the command (R97). There is no return from an error (R112). -/
def complete (code : ErrCode) (s : State) : State :=
  { s with busy := false, done := true, errcode := code.bits, fsm := .idle }

/-- The free values of `BRF` for one draw. -/
@[irreducible] def drawnRegs (draw : Nat) : Vector Word 64 := Vector.ofFn fun r => Config.freeWord draw r.val

/-- `BRF`, `TMP` and `DR` hold values the specification leaves unspecified (R35, R108): free values. -/
def drawData (s : State) : State :=
  { s with
    brf := drawnRegs s.draws
    tmp := Config.freeWord s.draws 64
    dr := Config.freeWord s.draws 65
    draws := s.draws + 1 }

/-- `raise Err(BUS_ERROR, a)`: the platform refused the access that starts at `a` (R108). The access has no effect, and
`BRF`, `TMP` and `DR` are then unspecified (log 7). -/
def busError (a : Nat) (s : State) : State :=
  raise .busError { drawData s with faultAddr := BitVec.ofNat 64 a }

/-- One `MemRead` step: `MemOk` is asked once, then the access is performed and `k` says what becomes of its word, or the
command ends in a bus error (R43, R95). -/
def readAccess (a : Nat) (k : Word → State) (s : State) : State :=
  if s.memOk .read a then k (s.memRead a) else busError a s

/-- One `MemWrite` step (R43, R95). -/
def writeAccess (a : Nat) (v : Word) (k : State → State) (s : State) : State :=
  if s.memOk .write a then k (s.memWrite a v) else busError a s

/-- The FSM moves to another state at block row `r` (R94, R98). -/
def enter (fsm : Fsm) (r : BitVec 6) (s : State) : State := { s with fsm := fsm, row := r }

/-- Is `ROW` the last block row? -/
def State.lastRow (s : State) : Bool := s.row.toNat == Config.blockSize - 1

end Sys2Proof.Machine
end

