-- ==== Sys2Proof/Machine/Operands.lean ====
section
/-! DEFINITION. What a command computes from its operand CSRs: block addresses (R75, R76), row addresses (R66), the checks
of `CYCLE4` and `ROTMAT` (R78, R79, R83, R107), the cells of a 4-cycle (R80). Every operand is zero-extended (R57). -/

namespace Sys2Proof.Machine

/-- `BlockOffset(i, j, S)` for an address width: the product and the sum are exact, then truncated (R75). -/
def blockOffsetAt (aw i j stride : Nat) : Nat := (i * Config.blockSize * stride + j * Config.rowBytes) % 2 ^ aw

/-- `BlockOffset` at this machine's width and stride. -/
def State.blockOffset (s : State) (i j : Nat) : Nat := blockOffsetAt s.aw i j s.strideS.toNat

/-- `BlockAddr(i, j)`, the address of a block's top-left byte (R76). -/
def State.blockAddr (s : State) (i j : Nat) : Nat := s.trunc (s.baseAddr.toNat + s.blockOffset i j)

/-- `trunc_AW(A + r*S)`, the address of row r of the block at A (R66). -/
def State.rowAddr (s : State) (blockAt r : Nat) : Nat := s.trunc (blockAt + r * s.strideS.toNat)

/-- The address of the current row of the current block: `trunc_AW(BA + r*S)` (R71, R98). -/
def State.currentRowAddr (s : State) : Nat := s.rowAddr s.ba.toNat s.row.toNat

/-- N is valid: not 0, and a multiple of 64 (R78). -/
def State.dimensionValid (s : State) : Bool := s.dimN.toNat != 0 && s.dimN.toNat % 64 == 0

/-- `STRIDE.S ≥ N/8` (R79). -/
def State.strideValid (s : State) : Bool := decide (s.dimN.toNat / 8 ≤ s.strideS.toNat)

/-- n, the number of blocks per side (R78). -/
def State.numBlocks (s : State) : Nat := s.dimN.toNat / Config.blockSize

/-- `BI.I < n` and `BJ.J < n` (R107). -/
def State.coordsValid (s : State) : Bool :=
  decide (s.biI.toNat < s.numBlocks) && decide (s.bjJ.toNat < s.numBlocks)

/-- The first check that `ROTMAT` fails, in the order of R110 (R87). -/
def State.matrixCheck (s : State) : ErrCode :=
  if !s.dimensionValid then .invalidDimension
  else if !s.strideValid then .invalidStride
  else .none

/-- The first check that `CYCLE4` fails, in the order of R110 (R83). -/
def State.cycleCheck (s : State) : ErrCode :=
  match s.matrixCheck with
  | .none => if s.coordsValid then .none else .coordRange
  | code => code

/-- The four cells of a 4-cycle (R80). -/
inductive CycleCell where
  | cellA | cellB | cellC | cellD
deriving DecidableEq, Repr

/-- The grid coordinates of a cell of the 4-cycle of `(i, j)`, for grid size n (R80). The subtractions are of natural numbers
(log 19). -/
def cycleCoords (n i j : Nat) : CycleCell → Nat × Nat
  | .cellA => (i, j)
  | .cellB => (j, n - 1 - i)
  | .cellC => (n - 1 - i, n - 1 - j)
  | .cellD => (n - 1 - j, i)

/-- The address of row r of a cell of the 4-cycle of `(i, j)` (R81). -/
def State.cycleRowAddr (s : State) (i j r : Nat) (cell : CycleCell) : Nat :=
  let p := cycleCoords s.numBlocks i j cell
  s.rowAddr (s.blockAddr p.1 p.2) r

end Sys2Proof.Machine
end

