-- ==== Sys2Proof/Machine/BitReversal.lean ====
section
/-! DEFINITION. The bit-reversal network: the full and the byte-local reversal of a word (R60, R61), and the commands `FREV`
and `BREV` (R64, R65). -/

namespace Sys2Proof.Machine

/-- One stage of the network: adjacent groups of `s` bits are swapped under the mask `m` (R60). -/
def swapGroups (s : Nat) (m y : Word) : Word := ((y >>> s) &&& m) ||| ((y &&& m) <<< s)

/-- `ByteLocalBitReverse`, the first three stages (R61). -/
def byteLocalBitReverse (x : Word) : Word :=
  swapGroups 4 0x0F0F0F0F0F0F0F0F (swapGroups 2 0x3333333333333333 (swapGroups 1 0x5555555555555555 x))

/-- `FullBitReverse`, the six stages (R60): the three of the byte-local network, then groups of 8, 16 and 32 bits. -/
def fullBitReverse (x : Word) : Word :=
  swapGroups 32 0x00000000FFFFFFFF (swapGroups 16 0x0000FFFF0000FFFF (swapGroups 8 0x00FF00FF00FF00FF
    (byteLocalBitReverse x)))

/-- `FREV` (R64): its check step writes `RESULT.Y` and completes, its second step ends it (R96, R97). -/
def execFrev (s : State) : Host.Outcome State Fault Refusal :=
  match s.fsm with
  | .check => .next (raise .none { s with resultY := fullBitReverse s.operandX })
  | .complete code => .next (complete code s)
  | _ => .fault .strayState

/-- `BREV` (R65): its check step writes `RESULT.Y` and completes, its second step ends it (R96, R97). -/
def execBrev (s : State) : Host.Outcome State Fault Refusal :=
  match s.fsm with
  | .check => .next (raise .none { s with resultY := byteLocalBitReverse s.operandX })
  | .complete code => .next (complete code s)
  | _ => .fault .strayState

end Sys2Proof.Machine
end

