-- ==== Sys2Proof/Machine/BlockAddressing.lean ====
section
/-! DEFINITION. The block address indexer reached from the host: `BADDR` (R77). The indexer itself is
`State.blockOffset` (R75). -/

namespace Sys2Proof.Machine

/-- `BADDR` (R77): its check step writes the offset, not the address, to `RESULT.Y` and completes (R96); it checks
nothing. -/
def execBaddr (s : State) : Host.Outcome State Fault Refusal :=
  match s.fsm with
  | .check => .next (raise .none { s with resultY := BitVec.ofNat 64 (s.blockOffset s.biI.toNat s.bjJ.toNat) })
  | .complete code => .next (complete code s)
  | _ => .fault .strayState

end Sys2Proof.Machine
end

