-- ==== Sys2Proof/Machine/BlockRotator.lean ====
section
/-! DEFINITION. The butterfly transpose engine (R67), the LOAD, XFORM and STORE steps over it (R74, R98), and the commands
`TPOSE` and `ROTBLK` (R71, R72). -/

namespace Sys2Proof.Machine

/-- The block register file: 64 words (R31). -/
abbrev BlockRegs := Vector Word 64

/-- The exchange of one pair of rows, `k` and `k|j`, under the mask `m` (R67). -/
def exchangeRows (j : Nat) (m : Word) (brf : BlockRegs) (k : Nat) : BlockRegs :=
  let lo := brf[k]?.getD 0
  let hi := brf[k ||| j]?.getD 0
  let t := (lo ^^^ (hi >>> j)) &&& m
  (brf.setIfInBounds k (lo ^^^ t)).setIfInBounds (k ||| j) (hi ^^^ (t <<< j))

/-- The inner loop of R67: `while k < 64`, with `k <- ((k|j) + 1) & ~j` (`~j` at 7 bits: k stays at most 64). The fuel is
the number of passes left; 32 visit every pair. -/
def exchangeFrom (j : Nat) (m : Word) : Nat → Nat → BlockRegs → BlockRegs
  | 0, _, brf => brf
  | fuel + 1, k, brf =>
    if k < 64 then exchangeFrom j m fuel (((k ||| j) + 1) &&& (127 ^^^ j)) (exchangeRows j m brf k) else brf

/-- The outer loop of R67: the widths `j = 32, 16, 8, 4, 2, 1`, the mask of the next width being `m ^ (m << j)`. -/
def transposeFrom : Nat → Nat → Word → BlockRegs → BlockRegs
  | 0, _, _, brf => brf
  | fuel + 1, j, m, brf =>
    if j = 0 then brf
    else transposeFrom fuel (j / 2) (m ^^^ (m <<< (j / 2))) (exchangeFrom j m 32 0 brf)

/-- `ButterflyTranspose(BRF)` (R67). -/
def butterflyTranspose (brf : BlockRegs) : BlockRegs := transposeFrom 6 32 0x00000000FFFFFFFF brf

/-- Pass 1 of the rotation, on one row word: `BLR(FBR(x))` (R62, R69). -/
def preReverse (x : Word) : Word := byteLocalBitReverse (fullBitReverse x)

/-- Pass 3 of the rotation, on one row word: `BLR(x)` (R69). -/
def postReverse (x : Word) : Word := byteLocalBitReverse x

/-- `RotateBlockWords(BRF)`, the three passes on the 64 words (R69). -/
def rotateBlockWords (brf : BlockRegs) : BlockRegs := (butterflyTranspose (brf.map preReverse)).map postReverse

/-- The current block is `(CI, CJ) = (i, j)`, and the FSM goes to `LOAD(0)` (R96, R98). -/
def enterBlock (i j : Field) (s : State) : State :=
  enter .load 0 { s with ci := i, cj := j, ba := s.truncWord (s.blockAddr i.toNat j.toNat) }

/-- The check step of `TPOSE` and `ROTBLK`: the current block is the one at `(BI.I, BJ.J)` (R96). -/
def startBlock (s : State) : State := enterBlock s.biI s.bjJ s

/-- `LOAD(r)`: row r of the current block into `BRF[r]`, through `pass` (R98). -/
def loadStep (pass : Word → Word) (s : State) : State :=
  readAccess s.currentRowAddr
    (fun w =>
      let s' := { s with brf := s.brf.setIfInBounds s.row.toNat (pass w) }
      if s.lastRow then { s' with fsm := .xform } else enter .load (s.row + 1) s')
    s

/-- `XFORM`: the whole network in one step (R74, R98). -/
def xformStep (s : State) : State := enter .store 0 { s with brf := butterflyTranspose s.brf }

/-- `STORE(r)`: `BRF[r]`, through `pass`, to row r of the current block; after the last row, `afterBlock` (R98). -/
def storeStep (pass : Word → Word) (afterBlock : State → State) (s : State) : State :=
  writeAccess s.currentRowAddr (pass (s.brf[s.row.toNat]?.getD 0))
    (fun s' => if s.lastRow then afterBlock s' else enter .store (s.row + 1) s')
    s

/-- `TPOSE` (R71): the network alone, the rows loaded and stored as they are. -/
def execTpose (s : State) : Host.Outcome State Fault Refusal :=
  match s.fsm with
  | .check => .next (startBlock s)
  | .load => .next (loadStep (fun w => w) s)
  | .xform => .next (xformStep s)
  | .store => .next (storeStep (fun w => w) (raise .none) s)
  | .complete code => .next (complete code s)
  | _ => .fault .strayState

/-- `ROTBLK` (R72): pass 1 on load, the network, pass 3 on store. -/
def execRotblk (s : State) : Host.Outcome State Fault Refusal :=
  match s.fsm with
  | .check => .next (startBlock s)
  | .load => .next (loadStep preReverse s)
  | .xform => .next (xformStep s)
  | .store => .next (storeStep postReverse (raise .none) s)
  | .complete code => .next (complete code s)
  | _ => .fault .strayState

end Sys2Proof.Machine
end

