-- ==== Sys2Proof/Machine/Control.lean ====
section
/-! DEFINITION. The command `NOP` (R92), and the steps of a word that is no command (R56, R104). -/

namespace Sys2Proof.Machine

/-- `NOP` (R92): its check step completes, its second step ends it (R96, R97). -/
def execNop (s : State) : Host.Outcome State Fault Refusal :=
  match s.fsm with
  | .check => .next (raise .none s)
  | .complete code => .next (complete code s)
  | _ => .fault .strayState

/-- An illegal command word: its check step raises `ILLEGAL_COMMAND`, its second step ends it (R96, R97, R104). -/
def illegalStep (s : State) : Host.Outcome State Fault Refusal :=
  match s.fsm with
  | .check => .next (raise .illegalCommand s)
  | .complete code => .next (complete code s)
  | _ => .fault .strayState

end Sys2Proof.Machine
end

