-- ==== Sys2Proof/Machine/MatrixDriver.lean ====
section
/-! DEFINITION. The block permutation and relocation FSM: the eight accesses of a 4-cycle row (R81), the two phases as
transitions (R84, R86, R98), and the commands `CYCLE4` and `ROTMAT` (R83, R87). -/

namespace Sys2Proof.Machine

/-- The two registers of a 4-cycle row (R31, R81). -/
inductive CycleReg where
  | tmp
  | dr
deriving DecidableEq, Repr

/-- One access of a 4-cycle row (R81). -/
structure CycleAccess where
  kind : AccessKind
  cell : CycleCell
  reg : CycleReg
deriving DecidableEq, Repr

/-- The accesses of `Cycle4Row`, in order: `TMP <- A; DR <- D; A <- DR; DR <- C; D <- DR; DR <- B; C <- DR; B <- TMP`
(R81). -/
def cycleAccess : Fin 8 → CycleAccess
  | 0 => ⟨.read, .cellA, .tmp⟩
  | 1 => ⟨.read, .cellD, .dr⟩
  | 2 => ⟨.write, .cellA, .dr⟩
  | 3 => ⟨.read, .cellC, .dr⟩
  | 4 => ⟨.write, .cellD, .dr⟩
  | 5 => ⟨.read, .cellB, .dr⟩
  | 6 => ⟨.write, .cellC, .dr⟩
  | 7 => ⟨.write, .cellB, .tmp⟩

/-- A register of the 4-cycle row. -/
def CycleReg.value (s : State) : CycleReg → Word
  | .tmp => s.tmp
  | .dr => s.dr

/-- A register of the 4-cycle row, written. -/
def CycleReg.write (s : State) (w : Word) : CycleReg → State
  | .tmp => { s with tmp := w }
  | .dr => { s with dr := w }

/-- Where the FSM goes after access `k` of row r: the next access, the next row, or `afterCycle` (R98). -/
def afterAccess (afterCycle : State → State) (k : Fin 8) (s : State) : State :=
  if k.val < 7 then { s with fsm := .cyc (k + 1) }
  else if s.lastRow then afterCycle s
  else enter (.cyc 0) (s.row + 1) s

/-- The address of access `k` of `CYC(r, k)` (R81, R98). -/
def State.cycAddr (s : State) (k : Fin 8) : Nat :=
  s.cycleRowAddr s.ci.toNat s.cj.toNat s.row.toNat (cycleAccess k).cell

/-- `CYC(r, k)`: access `k` of `Cycle4Row(CI, CJ, r)` (R81, R98). -/
def cycStep (afterCycle : State → State) (k : Fin 8) (s : State) : State :=
  let acc := cycleAccess k
  match acc.kind with
  | .read => readAccess (s.cycAddr k) (fun w => afterAccess afterCycle k (acc.reg.write s w)) s
  | .write => writeAccess (s.cycAddr k) (acc.reg.value s) (afterAccess afterCycle k) s

/-- The cell after `(CI, CJ)`, row by row, for rows of `columns` cells (R98). -/
def State.nextCell (s : State) (columns : Nat) : Field × Field :=
  if (s.cj + 1).toNat = columns then (s.ci + 1, 0) else (s.ci, s.cj + 1)

/-- After a block of phase 2: the next block in row-major order, or the end of the command (R86, R98). -/
def nextBlock (s : State) : State :=
  let p := s.nextCell s.numBlocks
  if p.1.toNat = s.numBlocks then raise .none { s with ci := p.1, cj := p.2 } else enterBlock p.1 p.2 s

/-- After a 4-cycle of phase 1: the next cycle of the range, or phase 2 from block (0, 0) (R84, R89, R98). -/
def nextCycle (s : State) : State :=
  let p := s.nextCell (s.numBlocks / 2)
  if p.1.toNat = (s.numBlocks + 1) / 2 then enterBlock 0 0 { s with ph := .inBlock }
  else enter (.cyc 0) 0 { s with ci := p.1, cj := p.2 }

/-- The check step of `CYCLE4`: the first failing check ends the command, else the 4-cycle of `(BI.I, BJ.J)` begins (R83,
R96). -/
def startCycle (s : State) : State :=
  match s.cycleCheck with
  | .none => enter (.cyc 0) 0 { s with ci := s.biI, cj := s.bjJ }
  | code => raise code s

/-- The check step of `ROTMAT`: the first failing check ends the command, else phase 2 begins when n = 1 (R88), phase 1
when not (R87, R96). -/
def startMatrix (s : State) : State :=
  match s.matrixCheck with
  | .none =>
    if s.numBlocks = 1 then enterBlock 0 0 { s with ph := .inBlock }
    else enter (.cyc 0) 0 { s with ci := 0, cj := 0, ph := .relocation }
  | code => raise code s

/-- `CYCLE4` (R83). -/
def execCycle4 (s : State) : Host.Outcome State Fault Refusal :=
  match s.fsm with
  | .check => .next (startCycle s)
  | .cyc k => .next (cycStep (raise .none) k s)
  | .complete code => .next (complete code s)
  | _ => .fault .strayState

/-- `ROTMAT` (R87): phase 1 (R84), then phase 2 (R86), whose body is the rotation of R72. -/
def execRotmat (s : State) : Host.Outcome State Fault Refusal :=
  match s.fsm with
  | .check => .next (startMatrix s)
  | .cyc k => .next (cycStep nextCycle k s)
  | .load => .next (loadStep preReverse s)
  | .xform => .next (xformStep s)
  | .store => .next (storeStep postReverse nextBlock s)
  | .complete code => .next (complete code s)
  | _ => .fault .strayState

end Sys2Proof.Machine
end

