-- ==== Sys2Proof/Machine/Dispatch.lean ====
section
/-! DEFINITION. The core's step of a command, in the FSM state the core is in: one arm a command. -/

namespace Sys2Proof.Machine

def exec (i : Instr) (s : State) : Host.Outcome State Fault Refusal :=
  match i with
  | .nop => Sys2Proof.Machine.execNop s
  | .frev => Sys2Proof.Machine.execFrev s
  | .brev => Sys2Proof.Machine.execBrev s
  | .baddr => Sys2Proof.Machine.execBaddr s
  | .tpose => Sys2Proof.Machine.execTpose s
  | .rotblk => Sys2Proof.Machine.execRotblk s
  | .cycle4 => Sys2Proof.Machine.execCycle4 s
  | .rotmat => Sys2Proof.Machine.execRotmat s

end Sys2Proof.Machine
end

