-- ==== Sys2Proof/WellFormed.lean ====
section
/-! DEFINITION. Which command words are legal (R56), and that every command is: a command has no operand that could be out
of range (R57). -/

namespace Sys2Proof

/-- `RSVD` is 0 (R54, R56). -/
def CommandWord.rsvdZero (c : CommandWord) : Bool := c.rsvd == 0

/-- `OP` is assigned: not in 0x8..0xF (R55, R56). -/
def CommandWord.opAssigned (c : CommandWord) : Bool := c.op.toNat < 8

/-- A legal command word (R56). -/
def CommandWord.wellFormed (c : CommandWord) : Bool := c.rsvdZero && c.opAssigned

/-- A command has no operand, so every one is well formed (R57). -/
def Instr.wellFormed : Instr → Bool
  | .nop => true
  | .frev => true
  | .brev => true
  | .baddr => true
  | .tpose => true
  | .rotblk => true
  | .cycle4 => true
  | .rotmat => true

end Sys2Proof
end

