-- ==== Sys2Proof/Decode.lean ====
section
/-! DEFINITION. The decoder and the encoder of command words, and the CSR map, from the encoding tables of the spec
(R16, R54, R55, R56). -/

namespace Sys2Proof

/-- Why a command word is illegal (R56). Both become `ILLEGAL_COMMAND` (R104). -/
inductive DecodeError where
  /-- `RSVD ≠ 0`. -/
  | reservedBits
  /-- `OP` in 0x8..0xF. -/
  | unassignedOpcode
deriving DecidableEq, Repr

/-- The two fields of a 64-bit word (R54). -/
def splitWord (w : Word) : CommandWord := { rsvd := w.extractLsb' 4 60, op := w.extractLsb' 0 4 }

/-- The 64-bit word of two fields: `RSVD` above `OP` (R54). -/
def joinWord (c : CommandWord) : Word := c.rsvd ++ c.op

/-- The opcode map (R55). -/
def decodeOp (op : BitVec 4) : Option Instr :=
  match op.toNat with
  | 0 => some .nop
  | 1 => some .frev
  | 2 => some .brev
  | 3 => some .baddr
  | 4 => some .tpose
  | 5 => some .rotblk
  | 6 => some .cycle4
  | 7 => some .rotmat
  | _ => none

/-- The command a 64-bit word stands for, or why it is illegal (R55, R56). -/
def decode (w : Word) : Except DecodeError Instr :=
  let c := splitWord w
  if c.rsvdZero then
    match decodeOp c.op with
    | some i => .ok i
    | none => .error .unassignedOpcode
  else .error .reservedBits

/-- The opcode of a command (R55). -/
def opcode : Instr → BitVec 4
  | .nop => 0x0
  | .frev => 0x1
  | .brev => 0x2
  | .baddr => 0x3
  | .tpose => 0x4
  | .rotblk => 0x5
  | .cycle4 => 0x6
  | .rotmat => 0x7

/-- The command word of a command: its opcode, and `RSVD = 0` (R54, R55). -/
def encode (i : Instr) : Word := joinWord { rsvd := 0, op := opcode i }

/-- The command of an opcode-table word of `nbits` bits: the table's numbering is the word's own, since a command is one
64-bit word (R54). -/
def decodeTableWord (nbits w : Nat) : Option Instr :=
  match decode (BitVec.ofNat 64 (w % 2 ^ nbits)) with
  | .ok i => some i
  | .error _ => none

/-- The CSR at an offset of the window: none where the offset holds no CSR or is not a multiple of 8 (R15, R16). -/
def csrAt (off : CsrOffset) : Option Csr :=
  match off.toNat with
  | 0x00 => some .cmd
  | 0x08 => some .status
  | 0x10 => some .dim
  | 0x18 => some .base
  | 0x20 => some .stride
  | 0x28 => some .bi
  | 0x30 => some .bj
  | 0x38 => some .operand
  | 0x40 => some .result
  | 0x48 => some .faultAddr
  | _ => none

/-- The offset of a CSR (R16). -/
def offsetOf : Csr → CsrOffset
  | .cmd => 0x00
  | .status => 0x08
  | .dim => 0x10
  | .base => 0x18
  | .stride => 0x20
  | .bi => 0x28
  | .bj => 0x30
  | .operand => 0x38
  | .result => 0x40
  | .faultAddr => 0x48

end Sys2Proof
end

