-- ==== Sys2Proof/Machine/Flags.lean ====
section
/-! DEFINITION. The `STATUS` register: its word as the host reads it (R16), and what issuing a command, dropping a write and
writing the register do to its bits (R23 to R28, R93). What completing does is `complete` (R97). -/

namespace Sys2Proof.Machine

/-- A status bit at its place in the word. -/
def flagAt (b : Bool) (i : Nat) : Word := if b then BitVec.twoPow 64 i else 0

/-- `STATUS` as a `CsrRead` returns it: `BUSY` bit 0, `DONE` bit 1, `OVR` bit 2, `ERRCODE` bits 15..8, the others 0 (R16). -/
def State.statusWord (s : State) : Word :=
  flagAt s.busy 0 ||| flagAt s.done 1 ||| flagAt s.ovr 2 ||| (s.errcode.setWidth 64 <<< 8)

/-- A `CMD` write issues a command: `BUSY` rises, `DONE` and `ERRCODE` become 0, `OVR` keeps its value, the FSM goes to
`CHECK` (R93). What `RESULT` and `FAULTADDR` then hold is what they read as until completion (R33, R126; log 8). -/
def issue (w : Word) (s : State) : State :=
  { s with
    op := w
    busy := true
    done := false
    errcode := 0
    fsm := .check
    resultHeld := s.resultY
    faultHeld := s.faultAddr }

/-- A host write is dropped because the core is busy: `OVR` becomes 1 (R25, R28). -/
def dropWrite (s : State) : State := { s with ovr := true }

/-- A write to `STATUS`: 1 clears `DONE` or `OVR`, 0 leaves it; the other bits are read-only or reserved (R16, R24, R25). -/
def writeStatus (v : Word) (s : State) : State :=
  { s with done := s.done && !v.getLsbD 1, ovr := s.ovr && !v.getLsbD 2 }

end Sys2Proof.Machine
end

