-- ==== Sys2Proof/Machine/Port.lean ====
section
/-! DEFINITION. What the outside world does to the core: CSR reads and writes (R15, R16, R28, R29), memory accesses from
outside (R53, R127), reset (R120, R121), and the footprint that a running command keeps to itself (R45). -/

namespace Sys2Proof.Machine

/-- The value a `CsrRead` of a CSR returns, reserved bits 0 (R16, R29). `CMD` reads 0 (D35). While `BUSY = 1`, `RESULT` and
`FAULTADDR` read as they were when the command was issued (R33, R126; log 8). -/
def State.csrValue (s : State) : Csr → Word
  | .cmd => 0
  | .status => s.statusWord
  | .dim => s.dimN.setWidth 64
  | .base => s.baseAddr
  | .stride => s.strideS.setWidth 64
  | .bi => s.biI.setWidth 64
  | .bj => s.bjJ.setWidth 64
  | .operand => s.operandX
  | .result => if s.busy then s.resultHeld else s.resultY
  | .faultAddr => if s.busy then s.faultHeld else s.faultAddr

/-- What `CsrRead(off)` returns: 0 where there is no CSR (R15, R29). -/
def State.csrRead (s : State) (off : CsrOffset) : Word :=
  match csrAt off with
  | some c => s.csrValue c
  | none => 0

/-- A write to a CSR that only an idle core takes: a busy core drops it and sets `OVR` (R28). -/
def whenIdle (write : State → State) (s : State) : State := if s.busy then dropWrite s else write s

/-- A write to a CSR (R16 to R28). The reserved bits of `v` are ignored; `RESULT` and `FAULTADDR` ignore the write and never
set `OVR`; a write to `CMD` issues a command, whatever the word (R93). -/
def writeCsr (c : Csr) (v : Word) (s : State) : State :=
  match c with
  | .cmd => whenIdle (issue v) s
  | .status => writeStatus v s
  | .dim => whenIdle (fun s => { s with dimN := v.setWidth 32 }) s
  | .base => whenIdle (fun s => { s with baseAddr := s.truncWord v.toNat }) s
  | .stride => whenIdle (fun s => { s with strideS := v.setWidth 32 }) s
  | .bi => whenIdle (fun s => { s with biI := v.setWidth 32 }) s
  | .bj => whenIdle (fun s => { s with bjJ := v.setWidth 32 }) s
  | .operand => whenIdle (fun s => { s with operandX := v }) s
  | .result => s
  | .faultAddr => s

/-- `CsrWrite(off, v)`: ignored where there is no CSR (R15). -/
def csrWrite (off : CsrOffset) (v : Word) (s : State) : State :=
  match csrAt off with
  | some c => writeCsr c v s
  | none => s

/-- The bytes of a rectangle of `rows` rows of `columns` bytes at `start`, one stride apart (R45). -/
def State.rectangle (s : State) (start rows columns : Nat) : List Nat :=
  (List.range rows).flatMap fun r => (List.range columns).map fun g => s.trunc (start + r * s.strideS.toNat + g)

/-- The footprint of the block at `(i, j)` (R45). -/
def State.blockFootprint (s : State) (i j : Nat) : List Nat :=
  s.rectangle (s.blockAddr i j) Config.blockSize Config.rowBytes

/-- The footprint of a cell of the 4-cycle of `(BI.I, BJ.J)` (R45, R80). -/
def State.cellFootprint (s : State) (cell : CycleCell) : List Nat :=
  let p := cycleCoords s.numBlocks s.biI.toNat s.bjJ.toNat cell
  s.blockFootprint p.1 p.2

/-- The footprint of a command: the bytes it may access. It is empty for a command that ends at its check step with an
error (R45). -/
def State.instrFootprint (s : State) : Instr → List Nat
  | .nop => []
  | .frev => []
  | .brev => []
  | .baddr => []
  | .tpose => s.blockFootprint s.biI.toNat s.bjJ.toNat
  | .rotblk => s.blockFootprint s.biI.toNat s.bjJ.toNat
  | .cycle4 =>
    if s.cycleCheck = .none then
      s.cellFootprint .cellA ++ s.cellFootprint .cellB ++ s.cellFootprint .cellC ++ s.cellFootprint .cellD
    else []
  | .rotmat =>
    if s.matrixCheck = .none then s.rectangle s.baseAddr.toNat s.dimN.toNat (s.dimN.toNat / 8) else []

/-- The footprint of the issued command word (R45); an illegal word ends at its check step (R104). -/
def State.footprint (s : State) : List Nat :=
  match decode s.op with
  | .ok i => s.instrFootprint i
  | .error _ => []

/-- The bytes no agent but the core may touch: the running command's footprint (R127). -/
def State.guarded (s : State) : List Nat := if s.busy then s.footprint else []

/-- A memory access from outside the core to `count` bytes from `a` on: refused where it meets the running command's
footprint (R127, S11), a fault where a byte does not exist (R36), else performed (R53, R95). Log 11. -/
def outsideAccess (a count : Nat) (k : State → State) (s : State) : Host.Outcome State Fault Refusal :=
  if 2 ^ s.aw < a + count then .fault .outsideAddressSpace
  else if (List.range count).any fun g => s.guarded.contains (a + g) then .refused .footprintBusy
  else .next (k s)

/-- A memory read from outside: its bytes go to the agent that read them. -/
def outsideRead (a count : Nat) (s : State) : Host.Outcome State Fault Refusal :=
  outsideAccess a count (fun s => { s with memData := (List.range count).map fun g => s.readByte (a + g) }) s

/-- Bytes numbered from an address on. -/
def cellsFrom : Nat → List Byte → List Host.Cell
  | _, [] => []
  | a, b :: bs => (a, b) :: cellsFrom (a + 1) bs

/-- A memory write from outside. -/
def outsideWrite (a : Nat) (bytes : List Byte) (s : State) : Host.Outcome State Fault Refusal :=
  outsideAccess a bytes.length (fun s => { s with mem := s.mem.writeCells (cellsFrom a bytes) }) s

/-- Every CSR at its reset value and the FSM idle (R34, R120). -/
def clearCsrs (s : State) : State :=
  { s with
    busy := false
    done := false
    ovr := false
    errcode := 0
    dimN := 0
    baseAddr := 0
    strideS := 0
    biI := 0
    bjJ := 0
    operandX := 0
    resultY := 0
    faultAddr := 0
    fsm := .idle }

/-- The internal registers hold values the specification leaves unspecified (R35): free values (log 6). -/
def drawInternals (s : State) : State :=
  let free := Config.freeWord s.draws
  { drawData s with
    ci := (free 66).setWidth 32
    cj := (free 67).setWidth 32
    row := (free 68).setWidth 6
    ba := s.truncWord (free 69).toNat
    ph := if (free 70).getLsbD 0 then .inBlock else .relocation }

/-- The bytes of an abandoned command's footprint hold values the specification leaves unspecified (R121): free values
(log 6). -/
def scramble (s : State) : State :=
  { s with mem := s.mem.writeCells (s.guarded.map fun a => (a, Config.freeByte s.draws a)) }

/-- The reset transition (R120, R121). Memory outside the footprint of an abandoned command is untouched. -/
def resetCore (s : State) : State := clearCsrs (drawInternals (scramble s))

/-- One poll of `wait` (R58): `STATUS` is read, and while `BUSY = 1` the poll comes again behind a core step (log 18). -/
def poll (rest : List Event) (s : State) : State :=
  { s with csrData := s.csrRead (offsetOf .status), schedule := if s.busy then .core :: .wait :: rest else rest }

end Sys2Proof.Machine
end

