-- ==== Sys2Proof/Machine/Transition.lean ====
section
/-! DEFINITION. The atomic transitions (R95): the core's step, and the transition that the schedule names next. -/

namespace Sys2Proof.Machine

/-- The core's step (R95): none is enabled when the FSM is idle, so nothing changes; else the step of the current state, for
the command that `op` holds, which is `exec`, or of an illegal word. -/
def coreStep (s : State) : Host.Outcome State Fault Refusal :=
  match s.fsm with
  | .idle => .next s
  | _ =>
    match decode s.op with
    | .ok i => exec i s
    | .error _ => illegalStep s

/-- One transition, with the transitions after it already in the schedule (R95). -/
def perform (e : Event) (s : State) : Host.Outcome State Fault Refusal :=
  match e with
  | .core => coreStep s
  | .csrRead off => .next { s with csrData := s.csrRead off }
  | .csrWrite off v => .next (csrWrite off v s)
  | .memRead a count => outsideRead a count s
  | .memWrite a bytes => outsideWrite a bytes s
  | .wait => .next (poll s.schedule s)
  | .reset => .next (resetCore s)

/-- The transition that is next: the head of the schedule, or the core's step when nothing is scheduled (R95, R99; log 1). -/
def advance (s : State) : Host.Outcome State Fault Refusal :=
  match s.schedule with
  | [] => coreStep s
  | e :: rest => perform e { s with schedule := rest }

/-- The command word `w` issued, as a `CMD` write issues it, and nothing scheduled before its first step (R93; log 13). -/
def issueAlone (w : Word) (s : State) : State := { issue w s with schedule := [] }

end Sys2Proof.Machine
end

