-- ==== Sys2Proof/Machine/Step.lean ====
section
/-! DEFINITION. The step of the model: one atomic transition (R95). -/

namespace Sys2Proof.Machine

/-- One atomic transition (R95). -/
def step (s : State) : Host.Outcome State Fault Refusal := advance s

/-- The state in which the very next step is the first step of the command in the word `w`, of `nbits` bits: the word
issued by a `CMD` write (R93). Log 13. -/
def State.withFetchWord (s : State) (nbits w : Nat) : State := issueAlone (BitVec.ofNat 64 (w % 2 ^ nbits)) s

end Sys2Proof.Machine
end

