-- ==== Sys2Proof/Machine/HostProgram.lean ====
section
/-! DEFINITION. The host-program notation (R58, R59), as lists of transitions for the schedule. -/

namespace Sys2Proof.Machine

/-- `csrw REG, v` (R58). -/
def csrw (c : Csr) (v : Word) : List Event := [.csrWrite (offsetOf c) v]

/-- `csrr REG` (R58). -/
def csrr (c : Csr) : List Event := [.csrRead (offsetOf c)]

/-- `cmdw w`, which may write an illegal word (R58). -/
def cmdw (w : Word) : List Event := csrw .cmd w

/-- `cmd MNEMONIC` (R58). -/
def cmd (i : Instr) : List Event := cmdw (encode i)

/-- `wait` (R58). -/
def wait : List Event := [.wait]

/-- `mem8 a, v` (R58). -/
def mem8 (a : Nat) (v : Byte) : List Event := [.memWrite a [v]]

/-- `run MNEMONIC` (R59). -/
def run (i : Instr) : List Event := cmd i ++ wait

/-- `clrst` (R59). -/
def clrst : List Event := csrw .status 0x6

/-- `rotate N, base, stride` (R59). -/
def rotate (n base stride : Word) : List Event := csrw .dim n ++ csrw .base base ++ csrw .stride stride ++ run .rotmat

/-- The machine with these transitions before those already scheduled. -/
def State.before (s : State) (program : List Event) : State := { s with schedule := program ++ s.schedule }

end Sys2Proof.Machine
end

