-- ==== Sys2Proof/Safety.lean ====
section
/-! DEFINITION. The terms claims are made in: the bits of a matrix and of a block in memory (R38, R42), the invariant of the
machine, what a platform accepts, runs of core steps. -/

namespace Sys2Proof.Machine

/-- Bit `(r, c)` of the matrix in memory (R38): byte `BASE + r*S + c/8`, bit `7 - c%8`. -/
def State.matrixBit (s : State) (r c : Nat) : Bool :=
  (s.readByte (s.trunc (s.baseAddr.toNat + r * s.strideS.toNat + c / 8))).getLsbD (7 - c % 8)

/-- Bit `(r, c)` of the block whose top-left byte is at `blockAt` (R38, R76). -/
def State.blockBit (s : State) (blockAt r c : Nat) : Bool :=
  (s.readByte (s.trunc (blockAt + r * s.strideS.toNat + c / 8))).getLsbD (7 - c % 8)

/-- Bit `b` of register `BRF[r]` (R31, R68). -/
def regBit (brf : BlockRegs) (r b : Nat) : Bool := (brf[r]?.getD 0).getLsbD b

/-- The platform accepts every access that starts at a byte of the command's footprint (R43, R124). -/
def State.footprintAccepted (s : State) : Prop := ∀ kind, ∀ a ∈ s.footprint, s.memOk kind a = true

/-- No address sum of the rows of a block at `blockAt` passes `2^AW` (R127), and its rows do not overlap (R71, R72). -/
def State.blockLiesFlat (s : State) (blockAt : Nat) : Prop :=
  8 ≤ s.strideS.toNat ∧ blockAt + 63 * s.strideS.toNat + 8 ≤ 2 ^ s.aw

/-- No address sum of the matrix passes `2^AW` (R90, R127). -/
def State.matrixLiesFlat (s : State) : Prop :=
  s.baseAddr.toNat + (s.dimN.toNat - 1) * s.strideS.toNat + s.dimN.toNat / 8 ≤ 2 ^ s.aw

/-- The core has just been issued command `i`, and nothing is scheduled before its steps (R93). -/
def State.issued (s : State) (i : Instr) : Prop :=
  s.fsm = .check ∧ s.busy = true ∧ s.op = encode i ∧ s.schedule = []

/-- `k` steps of the machine lead from `s` to `t`. -/
def stepsTo (k : Nat) (s t : State) : Prop := Host.Core.run Sys2Proof.core k s = .next t

/-- A command has ended with this code, and has changed no CSR but `STATUS` (R97, R111). -/
def State.endsFrom (t s : State) (code : ErrCode) : Prop :=
  t.fsm = .idle ∧ t.busy = false ∧ t.done = true ∧ t.errcode = code.bits ∧ t.ovr = s.ovr ∧
  t.dimN = s.dimN ∧ t.baseAddr = s.baseAddr ∧ t.strideS = s.strideS ∧ t.biI = s.biI ∧ t.bjJ = s.bjJ ∧
  t.operandX = s.operandX ∧ t.resultY = s.resultY ∧ t.faultAddr = s.faultAddr

/-- The state right after a command has ended with this code, if nothing else changed since `s` (R97). -/
def State.ended (s : State) (code : ErrCode) : State :=
  { s with busy := false, done := true, errcode := code.bits, fsm := .idle }

/-- The number of 4-cycles of phase 1: `ceil(n/2) * floor(n/2)` (R85, R91). -/
def State.numCycles (s : State) : Nat := (s.numBlocks + 1) / 2 * (s.numBlocks / 2)

/-- The context registers fit the FSM state: what `op`, `PH`, `CI`, `CJ` and `BA` are in each state that R96 and R98 enter
(R94). -/
def State.contextFits (s : State) : Prop :=
  match s.fsm with
  | .idle => True
  | .check => True
  | .complete _ => True
  | .load | .xform | .store =>
    s.ba.toNat = s.blockAddr s.ci.toNat s.cj.toNat ∧
    (((decode s.op = .ok .tpose ∨ decode s.op = .ok .rotblk) ∧ s.ci = s.biI ∧ s.cj = s.bjJ) ∨
      (decode s.op = .ok .rotmat ∧ s.matrixCheck = .none ∧ s.ph = .inBlock ∧
        s.ci.toNat < s.numBlocks ∧ s.cj.toNat < s.numBlocks))
  | .cyc _ =>
    (decode s.op = .ok .cycle4 ∧ s.cycleCheck = .none ∧ s.ci = s.biI ∧ s.cj = s.bjJ) ∨
      (decode s.op = .ok .rotmat ∧ s.matrixCheck = .none ∧ s.ph = .relocation ∧ 2 ≤ s.numBlocks ∧
        s.ci.toNat < (s.numBlocks + 1) / 2 ∧ s.cj.toNat < s.numBlocks / 2)

/-- The invariant of the machine. -/
structure State.Inv (s : State) : Prop where
  /-- The address width is one the model may take (R6). -/
  width : 16 ≤ s.aw ∧ s.aw ≤ 64
  /-- Memory has its canonical form. -/
  memWf : s.mem.wf
  /-- Memory holds no byte outside the address space (R36). -/
  memInSpace : ∀ c ∈ s.mem, c.1 < 2 ^ s.aw
  /-- `BASE`, `FAULTADDR` and `BA` are addresses: their bits from AW up read 0 (R16, R30). -/
  addresses : s.baseAddr.toNat < 2 ^ s.aw ∧ s.faultAddr.toNat < 2 ^ s.aw ∧ s.ba.toNat < 2 ^ s.aw
  /-- `BUSY` is 1 exactly while the FSM is not idle (R23, R94). -/
  busyIff : s.busy = true ↔ s.fsm ≠ .idle
  /-- While a command runs, `DONE` and `ERRCODE` are 0 (R24, R26, R33). -/
  quiet : s.busy = true → s.done = false ∧ s.errcode = 0
  /-- `ERRCODE` is a code of R102: 0x06 to 0xFF are never produced. -/
  codeKnown : s.errcode.toNat ≤ 5
  /-- The context registers fit the FSM state (R94). -/
  context : s.contextFits

end Sys2Proof.Machine
end

