-- ==== Sys2Proof/Certificates/Slice0/Obligations.lean ====
section
/-! DEFINITION. The statements for the provers. -/

open Sys2Proof Sys2Proof.Machine

/-! ## Encoding -/

/-- R55: the match is the whole word. Each of the eight words decodes to its command, no other word does, and decoding what
the encoder writes gives the command back. -/
def Obligations.DecodeMatchesWholeWord : Prop :=
  (∀ i : Instr, decode (encode i) = .ok i) ∧
  (∀ (w : Word) (i : Instr), decode w = .ok i → w = encode i) ∧
  (∀ w : Word,
    (decode w = .ok .nop ↔ w = 0x0000000000000000) ∧
    (decode w = .ok .frev ↔ w = 0x0000000000000001) ∧
    (decode w = .ok .brev ↔ w = 0x0000000000000002) ∧
    (decode w = .ok .baddr ↔ w = 0x0000000000000003) ∧
    (decode w = .ok .tpose ↔ w = 0x0000000000000004) ∧
    (decode w = .ok .rotblk ↔ w = 0x0000000000000005) ∧
    (decode w = .ok .cycle4 ↔ w = 0x0000000000000006) ∧
    (decode w = .ok .rotmat ↔ w = 0x0000000000000007))

/-- 30_encoding.md section 1: a word is refused exactly when `RSVD ≠ 0` or `OP` is in 0x8..0xF. -/
def Obligations.IllegalWordsAreRefused : Prop :=
  ∀ w : Word,
    ((∃ e, decode w = .error e) ↔ (w.toNat / 16 ≠ 0 ∨ 8 ≤ w.toNat % 16)) ∧
    (decode w = .error .reservedBits ↔ w.toNat / 16 ≠ 0)

/-- The words of R55 and four words of V8, one by one. -/
def Obligations.TableWordsDecode : Prop :=
  decode 0x0 = .ok .nop ∧ decode 0x1 = .ok .frev ∧ decode 0x2 = .ok .brev ∧ decode 0x3 = .ok .baddr ∧
  decode 0x4 = .ok .tpose ∧ decode 0x5 = .ok .rotblk ∧ decode 0x6 = .ok .cycle4 ∧ decode 0x7 = .ok .rotmat ∧
  decode 0x8 = .error .unassignedOpcode ∧ decode 0xF = .error .unassignedOpcode ∧
  decode 0x17 = .error .reservedBits ∧ decode 0x8000000000000000 = .error .reservedBits

/-! ## The CSR port -/

/-- 10_state.md section 1: a CSR stands at the offset the map gives it and nowhere else; an offset that holds none reads 0,
and a write there changes nothing. -/
def Obligations.OffsetsFollowCsrMap : Prop :=
  (∀ (off : CsrOffset) (c : Csr), csrAt off = some c ↔ off = offsetOf c) ∧
  ((offsetOf .cmd).toNat = 0x00 ∧ (offsetOf .status).toNat = 0x08 ∧ (offsetOf .dim).toNat = 0x10 ∧
    (offsetOf .base).toNat = 0x18 ∧ (offsetOf .stride).toNat = 0x20 ∧ (offsetOf .bi).toNat = 0x28 ∧
    (offsetOf .bj).toNat = 0x30 ∧ (offsetOf .operand).toNat = 0x38 ∧ (offsetOf .result).toNat = 0x40 ∧
    (offsetOf .faultAddr).toNat = 0x48) ∧
  (∀ (off : CsrOffset) (v : Word) (s : State), csrAt off = none → s.csrRead off = 0 ∧ csrWrite off v s = s)

/-- 10_state.md section 1: `BUSY`, `DONE`, `OVR` are bits 0, 1, 2 of `STATUS`, `ERRCODE` its bits 15..8, and every other
bit reads 0. -/
def Obligations.StatusWordLayout : Prop :=
  ∀ (s : State) (b : Nat), b < 64 →
    (s.csrRead (offsetOf .status)).getLsbD b =
      if b = 0 then s.busy
      else if b = 1 then s.done
      else if b = 2 then s.ovr
      else if 8 ≤ b ∧ b < 16 then s.errcode.getLsbD (b - 8)
      else false

/-- 44_control.md section 2: a write to `CMD` issues a command when the core is idle, whatever the word, and is dropped when
it is busy; an illegal word is refused at its check step. The fields `resultHeld` and `faultHeld` are the model's own: that
the issue keeps in them what `RESULT` and `FAULTADDR` hold is the model's choice (log 8), of which R93 says nothing. -/
def Obligations.CommandWriteIssues : Prop :=
  ∀ (s : State) (w : Word) (rest : List Event), s.schedule = .csrWrite 0x00 w :: rest →
    (s.busy = false →
      step s = .next { s with
        op := w, busy := true, done := false, errcode := 0, fsm := .check,
        resultHeld := s.resultY, faultHeld := s.faultAddr, schedule := rest }) ∧
    (s.busy = true → step s = .next { s with ovr := true, schedule := rest }) ∧
    (∀ e, decode w = .error e → coreStep (issue w s) = .next { issue w s with fsm := .complete .illegalCommand })

/-- R28: a busy core drops a write to `CMD` or to an operand CSR and sets `OVR`; a write to `STATUS` is performed, busy or
not; a write to `RESULT`, to `FAULTADDR` or to an unmapped offset is ignored at all times and never sets `OVR`. -/
def Obligations.BusyDropsOperandWrites : Prop :=
  ∀ (s : State) (off : CsrOffset) (v : Word) (rest : List Event), s.schedule = .csrWrite off v :: rest →
    (s.busy = true → (off = 0x00 ∨ off = 0x10 ∨ off = 0x18 ∨ off = 0x20 ∨ off = 0x28 ∨ off = 0x30 ∨ off = 0x38) →
      step s = .next { s with ovr := true, schedule := rest }) ∧
    (off = 0x08 →
      step s = .next { s with
        done := s.done && !v.getLsbD 1, ovr := s.ovr && !v.getLsbD 2, schedule := rest }) ∧
    ((off = 0x40 ∨ off = 0x48 ∨ csrAt off = none) → step s = .next { s with schedule := rest })

/-- 10_state.md section 2: what a write to each operand CSR of an idle core leaves: the field's bits of the value written,
and nothing else changed. -/
def Obligations.IdleWritesLand : Prop :=
  ∀ (s : State) (off : CsrOffset) (v : Word) (rest : List Event), s.schedule = .csrWrite off v :: rest →
    s.busy = false →
    (off = 0x10 → step s = .next { s with dimN := BitVec.ofNat 32 v.toNat, schedule := rest }) ∧
    (off = 0x18 → step s = .next { s with baseAddr := BitVec.ofNat 64 (v.toNat % 2 ^ s.aw), schedule := rest }) ∧
    (off = 0x20 → step s = .next { s with strideS := BitVec.ofNat 32 v.toNat, schedule := rest }) ∧
    (off = 0x28 → step s = .next { s with biI := BitVec.ofNat 32 v.toNat, schedule := rest }) ∧
    (off = 0x30 → step s = .next { s with bjJ := BitVec.ofNat 32 v.toNat, schedule := rest }) ∧
    (off = 0x38 → step s = .next { s with operandX := v, schedule := rest })

/-- 10_state.md sections 1 and 2: a read has no side effect, and returns 0 for `CMD`, `STATUS` by its layout, each operand
CSR zero-extended, `RESULT` and `FAULTADDR` of an idle core. -/
def Obligations.ReadsReturnRegisters : Prop :=
  ∀ (s : State) (off : CsrOffset) (rest : List Event), s.schedule = .csrRead off :: rest →
    ∃ v : Word, step s = .next { s with csrData := v, schedule := rest } ∧
      (off = 0x00 → v = 0) ∧
      (off = 0x08 → v = s.statusWord) ∧
      (off = 0x10 → v.toNat = s.dimN.toNat) ∧
      (off = 0x18 → v = s.baseAddr) ∧
      (off = 0x20 → v.toNat = s.strideS.toNat) ∧
      (off = 0x28 → v.toNat = s.biI.toNat) ∧
      (off = 0x30 → v.toNat = s.bjJ.toNat) ∧
      (off = 0x38 → v = s.operandX) ∧
      (off = 0x40 → s.busy = false → v = s.resultY) ∧
      (off = 0x48 → s.busy = false → v = s.faultAddr) ∧
      (csrAt off = none → v = 0)

/-- 10_state.md section 3 and 70_reset_and_hazards.md section 3: while the command runs on, no step of the core changes what
a `CsrRead` returns, at any offset. That this holds of `RESULT` and `FAULTADDR` too is the model's reading (log 8). -/
def Obligations.RunningCommandHidesResults : Prop :=
  ∀ s t : State, s.busy = true → coreStep s = .next t → t.busy = true →
    ∀ off : CsrOffset, t.csrRead off = s.csrRead off

/-- 30_encoding.md section 3: `wait` reads `STATUS`; it comes again behind one core step while `BUSY` is 1, and is done
when `BUSY` is 0. How it comes again is the model's form (log 18). -/
def Obligations.WaitPollsUntilIdle : Prop :=
  ∀ (s : State) (rest : List Event), s.schedule = .wait :: rest →
    (s.busy = true → step s = .next { s with csrData := s.statusWord, schedule := .core :: .wait :: rest }) ∧
    (s.busy = false → step s = .next { s with csrData := s.statusWord, schedule := rest })

/-! ## The bit-reversal network -/

/-- R60: `FullBitReverse` gives bit `63 - b` at bit `b`; the stage of width s flips the bit of weight s of every bit index,
and the six stages, run one after the other in any order, are the function. -/
def Obligations.FullBitReverseMirrorsWord : Prop :=
  ∀ x : Word,
    (∀ b < 64, (fullBitReverse x).getLsbD b = x.getLsbD (63 - b)) ∧
    (∀ p ∈ [(1, 0x5555555555555555), (2, 0x3333333333333333), (4, 0x0F0F0F0F0F0F0F0F),
        (8, 0x00FF00FF00FF00FF), (16, 0x0000FFFF0000FFFF), (32, (0x00000000FFFFFFFF : Word))],
      ∀ b < 64, (((x >>> p.1) &&& p.2) ||| ((x &&& p.2) <<< p.1)).getLsbD b = x.getLsbD (b ^^^ p.1)) ∧
    ∀ stages : List (Nat × Word),
      stages.Perm [(1, 0x5555555555555555), (2, 0x3333333333333333), (4, 0x0F0F0F0F0F0F0F0F),
        (8, 0x00FF00FF00FF00FF), (16, 0x0000FFFF0000FFFF), (32, 0x00000000FFFFFFFF)] →
      stages.foldl (fun y p => ((y >>> p.1) &&& p.2) ||| ((y &&& p.2) <<< p.1)) x = fullBitReverse x

/-- R61: `ByteLocalBitReverse` gives bit `8g + 7 - p` at bit `8g + p`; it is the first three swap stages. -/
def Obligations.ByteLocalReverseMirrorsBytes : Prop :=
  ∀ x : Word,
    (∀ g < 8, ∀ p < 8, (byteLocalBitReverse x).getLsbD (8 * g + p) = x.getLsbD (8 * g + 7 - p)) ∧
    (∀ b < 64, (byteLocalBitReverse x).getLsbD b = x.getLsbD (b ^^^ 7)) ∧
    [(1, 0x5555555555555555), (2, 0x3333333333333333), (4, (0x0F0F0F0F0F0F0F0F : Word))].foldl
      (fun y p => ((y >>> p.1) &&& p.2) ||| ((y &&& p.2) <<< p.1)) x = byteLocalBitReverse x

/-- R62: the pre-reversal of the block rotator is byte reversal. -/
def Obligations.PreReversalReversesBytes : Prop :=
  ∀ x : Word, ∀ g < 8, byteOf (byteLocalBitReverse (fullBitReverse x)) g = byteOf x (7 - g)

/-- R63: the laws of the two functions. -/
def Obligations.ReversalLaws : Prop :=
  ∀ x y : Word,
    fullBitReverse (fullBitReverse x) = x ∧
    byteLocalBitReverse (byteLocalBitReverse x) = x ∧
    (∀ g < 8, byteOf x g = byteOf y g → byteOf (byteLocalBitReverse x) g = byteOf (byteLocalBitReverse y) g) ∧
    fullBitReverse (byteLocalBitReverse x) = byteLocalBitReverse (fullBitReverse x) ∧
    (∀ g < 8, byteOf (fullBitReverse (byteLocalBitReverse x)) g = byteOf x (7 - g)) ∧
    (fullBitReverse (x &&& y) = fullBitReverse x &&& fullBitReverse y ∧
      fullBitReverse (x ||| y) = fullBitReverse x ||| fullBitReverse y ∧
      fullBitReverse (x ^^^ y) = fullBitReverse x ^^^ fullBitReverse y ∧
      fullBitReverse (~~~x) = ~~~fullBitReverse x) ∧
    (byteLocalBitReverse (x &&& y) = byteLocalBitReverse x &&& byteLocalBitReverse y ∧
      byteLocalBitReverse (x ||| y) = byteLocalBitReverse x ||| byteLocalBitReverse y ∧
      byteLocalBitReverse (x ^^^ y) = byteLocalBitReverse x ^^^ byteLocalBitReverse y ∧
      byteLocalBitReverse (~~~x) = ~~~byteLocalBitReverse x) ∧
    fullBitReverse 0 = 0 ∧ fullBitReverse (~~~0) = ~~~0 ∧
    byteLocalBitReverse 0 = 0 ∧ byteLocalBitReverse (~~~0) = ~~~0

/-! ## The butterfly network -/

/-- 41_block_rotator.md section 2: the network transposes about the anti-diagonal, and is an involution. -/
def Obligations.ButterflyTransposesBlock : Prop :=
  ∀ brf : BlockRegs,
    (∀ r < 64, ∀ b < 64, regBit (butterflyTranspose brf) r b = regBit brf (63 - b) (63 - r)) ∧
    butterflyTranspose (butterflyTranspose brf) = brf

/-- R69: the three passes, and their effect on the bits. -/
def Obligations.RotateBlockWordsMapsBits : Prop :=
  ∀ brf : BlockRegs,
    rotateBlockWords brf =
      (butterflyTranspose (brf.map fun x => byteLocalBitReverse (fullBitReverse x))).map byteLocalBitReverse ∧
    ∀ r < 64, ∀ b < 64, regBit (rotateBlockWords brf) r b = regBit brf (b ^^^ 56) (r ^^^ 7)

/-! ## Memory -/

/-- R40: `MemRead` assembles its word little-endian, every address truncated to AW bits. -/
def Obligations.ReadIsLittleEndian : Prop :=
  ∀ (s : State) (a g : Nat), g < 8 → byteOf (s.memRead a) g = s.readByte ((a + g) % 2 ^ s.aw)

/-- R41: `MemWrite` writes byte g of its word to `trunc_AW(a + g)`, a `MemRead` then returns the word, and no other byte and
nothing else changes. -/
def Obligations.WriteThenReadReturnsWord : Prop :=
  ∀ (s : State) (a : Nat) (v : Word), 16 ≤ s.aw →
    (∀ g < 8, (s.memWrite a v).readByte ((a + g) % 2 ^ s.aw) = byteOf v g) ∧
    (s.memWrite a v).memRead a = v ∧
    (∀ b, (∀ g < 8, b ≠ (a + g) % 2 ^ s.aw) → (s.memWrite a v).readByte b = s.readByte b) ∧
    s.memWrite a v = { s with mem := (s.memWrite a v).mem }

/-- R42: block-local column c of a row is bit `c ^ 7` of its row word, and word bit b holds column `b ^ 7`. -/
def Obligations.ColumnsOfRowWord : Prop :=
  ∀ (s : State) (blockAt r c : Nat), c < 64 →
    8 * (c / 8) + 7 - c % 8 = c ^^^ 7 ∧
    (s.memRead (s.rowAddr blockAt r)).getLsbD (c ^^^ 7) = s.blockBit blockAt r c ∧
    (s.memRead (s.rowAddr blockAt r)).getLsbD c = s.blockBit blockAt r (c ^^^ 7)

/-- R76: bit `(r, c)` of the block at `(i, j)` is bit `(64i + r, 64j + c)` of the matrix, and its row r starts at
`BlockAddr(i, j) + r*S`. -/
def Obligations.BlocksTileMatrix : Prop :=
  ∀ (s : State) (i j r c : Nat), c < 64 →
    s.blockAddr i j = (s.baseAddr.toNat + (i * 64 * s.strideS.toNat + j * 8) % 2 ^ s.aw) % 2 ^ s.aw ∧
    s.blockBit (s.blockAddr i j) r c = s.matrixBit (64 * i + r) (64 * j + c) ∧
    s.rowAddr (s.blockAddr i j) r = (s.blockAddr i j + r * s.strideS.toNat) % 2 ^ s.aw

/-! ## The 4-cycle's cells -/

/-- R80: the cells of a 4-cycle; each is where a clockwise rotation of the whole matrix sends the one before it, and they are
all equal exactly at the centre of an odd grid, else all distinct. -/
def Obligations.CycleCellsAreCentreOrDistinct : Prop :=
  ∀ n i j : Nat, i < n → j < n →
    (cycleCoords n i j .cellA = (i, j) ∧ cycleCoords n i j .cellB = (j, n - 1 - i) ∧
      cycleCoords n i j .cellC = (n - 1 - i, n - 1 - j) ∧ cycleCoords n i j .cellD = (n - 1 - j, i)) ∧
    (∀ p q, (p, q) = (CycleCell.cellA, CycleCell.cellB) ∨ (p, q) = (.cellB, .cellC) ∨ (p, q) = (.cellC, .cellD) ∨
        (p, q) = (.cellD, .cellA) →
      cycleCoords n i j q = ((cycleCoords n i j p).2, n - 1 - (cycleCoords n i j p).1)) ∧
    ((2 * i + 1 = n ∧ 2 * j + 1 = n) → ∀ p q, cycleCoords n i j p = cycleCoords n i j q) ∧
    (¬(2 * i + 1 = n ∧ 2 * j + 1 = n) → ∀ p q, cycleCoords n i j p = cycleCoords n i j q → p = q)

/-- R85: the range of phase 1 holds exactly one cell of every 4-cycle of distinct cells, never the centre; the four images of
an odd grid's range are the four rectangles around the centre; and `4 * ceil(n/2) * floor(n/2) + n % 2 = n * n`. -/
def Obligations.PhaseOneCoversGrid : Prop :=
  ∀ n : Nat,
    (∀ i < n, ∀ j < n, ¬(2 * i + 1 = n ∧ 2 * j + 1 = n) →
      ∃ ci < (n + 1) / 2, ∃ cj < n / 2, ∃ cell, cycleCoords n ci cj cell = (i, j)) ∧
    (∀ ci < (n + 1) / 2, ∀ cj < n / 2, ∀ di < (n + 1) / 2, ∀ dj < n / 2, ∀ p q,
      cycleCoords n ci cj p = cycleCoords n di dj q → ci = di ∧ cj = dj ∧ p = q) ∧
    (∀ ci < (n + 1) / 2, ∀ cj < n / 2, ∀ p i j, cycleCoords n ci cj p = (i, j) →
      i < n ∧ j < n ∧ ¬(2 * i + 1 = n ∧ 2 * j + 1 = n)) ∧
    (∀ m, n = 2 * m + 1 → ∀ i j,
      ((∃ ci < (n + 1) / 2, ∃ cj < n / 2, cycleCoords n ci cj .cellA = (i, j)) ↔ i ≤ m ∧ j < m) ∧
      ((∃ ci < (n + 1) / 2, ∃ cj < n / 2, cycleCoords n ci cj .cellB = (i, j)) ↔ i < m ∧ m ≤ j ∧ j ≤ 2 * m) ∧
      ((∃ ci < (n + 1) / 2, ∃ cj < n / 2, cycleCoords n ci cj .cellC = (i, j)) ↔
        (m ≤ i ∧ i ≤ 2 * m) ∧ m + 1 ≤ j ∧ j ≤ 2 * m) ∧
      ((∃ ci < (n + 1) / 2, ∃ cj < n / 2, cycleCoords n ci cj .cellD = (i, j)) ↔
        (m + 1 ≤ i ∧ i ≤ 2 * m) ∧ j ≤ m)) ∧
    4 * ((n + 1) / 2 * (n / 2)) + n % 2 = n * n

/-! ## The core's steps of each command -/

/-- The bytes at the program's place here are the word in `op` (R93, R96): when it decodes to `i`, every core step of the
command is `exec` of `i`, whether nothing is scheduled or the core's step is. That an empty schedule means a core step is
the model's choice (log 1). -/
def Obligations.StepRunsDecodedCommand : Prop :=
  ∀ (s : State) (i : Instr), s.fsm ≠ .idle → decode s.op = .ok i →
    (s.schedule = [] → step s = exec i s) ∧
    (∀ rest, s.schedule = .core :: rest → step s = exec i { s with schedule := rest })

/-- R97: the COMPLETE step of every command, and of an illegal word, sets `BUSY` 0, `DONE` 1 and `ERRCODE`, and changes
nothing else. -/
def Obligations.CompleteStepEndsCommand : Prop :=
  ∀ (s : State) (code : ErrCode), s.fsm = .complete code →
    (∀ i : Instr, exec i s = .next { s with busy := false, done := true, errcode := code.bits, fsm := .idle }) ∧
    (s.schedule = [] → step s = .next { s with busy := false, done := true, errcode := code.bits, fsm := .idle }) ∧
    (code.bits.toNat = match code with
      | .none => 0 | .illegalCommand => 1 | .invalidDimension => 2 | .invalidStride => 3 | .coordRange => 4
      | .busError => 5)

/-- R92: `NOP` completes in its check step, and its two steps change `STATUS` and nothing else. -/
def Obligations.NopOnlyCompletes : Prop :=
  encode .nop = 0x0000000000000000 ∧ ∀ s : State, s.fsm = .check →
    exec .nop s = .next { s with fsm := .complete .none } ∧
    exec .nop { s with fsm := .complete .none } =
      .next { s with busy := false, done := true, errcode := 0, fsm := .idle }

/-- R64: `FREV` leaves in `RESULT` the word whose bit b is bit `63 - b` of `OPERAND`, and its two steps change nothing else
but `STATUS`. -/
def Obligations.FrevReversesOperand : Prop :=
  encode .frev = 0x0000000000000001 ∧
  ∀ s : State, s.fsm = .check → ∃ y : Word, (∀ b < 64, y.getLsbD b = s.operandX.getLsbD (63 - b)) ∧
    exec .frev s = .next { s with resultY := y, fsm := .complete .none } ∧
    exec .frev { s with resultY := y, fsm := .complete .none } =
      .next { s with resultY := y, busy := false, done := true, errcode := 0, fsm := .idle }

/-- R65: `BREV` leaves in `RESULT` the word whose bit `8g + p` is bit `8g + 7 - p` of `OPERAND`, and its two steps change
nothing else but `STATUS`. -/
def Obligations.BrevReversesOperandBytes : Prop :=
  encode .brev = 0x0000000000000002 ∧
  ∀ s : State, s.fsm = .check → ∃ y : Word,
    (∀ g < 8, ∀ p < 8, y.getLsbD (8 * g + p) = s.operandX.getLsbD (8 * g + 7 - p)) ∧
    exec .brev s = .next { s with resultY := y, fsm := .complete .none } ∧
    exec .brev { s with resultY := y, fsm := .complete .none } =
      .next { s with resultY := y, busy := false, done := true, errcode := 0, fsm := .idle }

/-- R77: `BADDR` leaves the block offset in `RESULT`, zero-extended, for every value of its operands, and its two steps
change nothing else but `STATUS`. -/
def Obligations.BaddrComputesOffset : Prop :=
  encode .baddr = 0x0000000000000003 ∧
  ∀ s : State, s.fsm = .check → s.aw ≤ 64 → ∃ y : Word,
    y.toNat = (s.biI.toNat * 64 * s.strideS.toNat + s.bjJ.toNat * 8) % 2 ^ s.aw ∧
    exec .baddr s = .next { s with resultY := y, fsm := .complete .none } ∧
    exec .baddr { s with resultY := y, fsm := .complete .none } =
      .next { s with resultY := y, busy := false, done := true, errcode := 0, fsm := .idle }

/-- 44_control.md section 3: the check step of `TPOSE` and of `ROTBLK` checks nothing and enters LOAD(0) of the block at
`(BI.I, BJ.J)`. -/
def Obligations.BlockCommandsStart : Prop :=
  ∀ s : State, s.fsm = .check → ∀ i, (i = .tpose ∨ i = .rotblk) →
    exec i s = .next { s with
      ci := s.biI, cj := s.bjJ,
      ba := BitVec.ofNat 64
        ((s.baseAddr.toNat + (s.biI.toNat * 64 * s.strideS.toNat + s.bjJ.toNat * 8) % 2 ^ s.aw) % 2 ^ s.aw),
      fsm := .load, row := 0 }

/-- 44_control.md section 3: LOAD(r) of `TPOSE` loads the row word at `trunc_AW(BA + r*S)` as it is, that of `ROTBLK` and
`ROTMAT` loads it byte-reversed; nothing else changes but the FSM state. -/
def Obligations.LoadStepFillsRegister : Prop :=
  ∀ s : State, s.fsm = .load → ∀ a, a = (s.ba.toNat + s.row.toNat * s.strideS.toNat) % 2 ^ s.aw →
    s.memOk .read a = true → ∀ i, (i = .tpose ∨ i = .rotblk ∨ i = .rotmat) →
    ∃ brf : BlockRegs,
      exec i s = .next { s with
        brf := brf,
        fsm := if s.row = 63 then .xform else .load,
        row := if s.row = 63 then s.row else s.row + 1 } ∧
      brf[s.row.toNat]? =
        some (if i = .tpose then s.memRead a else byteLocalBitReverse (fullBitReverse (s.memRead a))) ∧
      ∀ r, r ≠ s.row.toNat → brf[r]? = s.brf[r]?

/-- 44_control.md section 3: XFORM of `TPOSE`, `ROTBLK` and `ROTMAT` transposes the block register file about its
anti-diagonal and enters STORE(0). -/
def Obligations.TransformStepTransposes : Prop :=
  ∀ s : State, s.fsm = .xform → ∀ i, (i = .tpose ∨ i = .rotblk ∨ i = .rotmat) →
    ∃ brf : BlockRegs,
      exec i s = .next { s with brf := brf, fsm := .store, row := 0 } ∧
      ∀ r < 64, ∀ b < 64, regBit brf r b = regBit s.brf (63 - b) (63 - r)

/-- 44_control.md section 3: STORE(r) writes the row word at `trunc_AW(BA + r*S)`, `BRF[r]` for `TPOSE`, its byte-local
reverse for `ROTBLK` and `ROTMAT`, and no other byte. After the last row, `TPOSE` and `ROTBLK` complete, and `ROTMAT` goes
to the next block in row-major order or completes after the last. -/
def Obligations.StoreStepWritesRow : Prop :=
  ∀ s : State, s.fsm = .store → 16 ≤ s.aw →
    ∀ a, a = (s.ba.toNat + s.row.toNat * s.strideS.toNat) % 2 ^ s.aw →
    s.memOk .write a = true → ∀ i, (i = .tpose ∨ i = .rotblk ∨ i = .rotmat) →
    ∃ t : State, exec i s = .next t ∧
      t.memRead a =
        (if i = .tpose then s.brf[s.row.toNat]?.getD 0 else byteLocalBitReverse (s.brf[s.row.toNat]?.getD 0)) ∧
      (∀ b, (∀ g < 8, b ≠ (a + g) % 2 ^ s.aw) → t.readByte b = s.readByte b) ∧
      (s.row ≠ 63 → t = { s with mem := t.mem, row := s.row + 1 }) ∧
      (s.row = 63 → i ≠ .rotmat → t = { s with mem := t.mem, fsm := .complete .none }) ∧
      (s.row = 63 → i = .rotmat →
        s.ci.toNat < s.dimN.toNat / 64 → s.cj.toNat < s.dimN.toNat / 64 →
        (s.cj.toNat + 1 < s.dimN.toNat / 64 →
          t = { s with
            mem := t.mem, cj := s.cj + 1, fsm := .load, row := 0,
            ba := BitVec.ofNat 64 (s.blockAddr s.ci.toNat (s.cj.toNat + 1)) }) ∧
        (s.cj.toNat + 1 = s.dimN.toNat / 64 → s.ci.toNat + 1 < s.dimN.toNat / 64 →
          t = { s with
            mem := t.mem, ci := s.ci + 1, cj := 0, fsm := .load, row := 0,
            ba := BitVec.ofNat 64 (s.blockAddr (s.ci.toNat + 1) 0) }) ∧
        (s.cj.toNat + 1 = s.dimN.toNat / 64 → s.ci.toNat + 1 = s.dimN.toNat / 64 →
          t = { s with mem := t.mem, ci := s.ci + 1, cj := 0, fsm := .complete .none }))

/-- R83, its checks: the check step of `CYCLE4` ends with the first of INVALID_DIMENSION, INVALID_STRIDE, COORD_RANGE that
applies, and else enters CYC(0, 0) of the 4-cycle of `(BI.I, BJ.J)`. -/
def Obligations.CycleCommandChecks : Prop :=
  ∀ s : State, s.fsm = .check →
    exec .cycle4 s = .next
      (if s.dimN.toNat = 0 ∨ s.dimN.toNat % 64 ≠ 0 then { s with fsm := .complete .invalidDimension }
      else if s.strideS.toNat < s.dimN.toNat / 8 then { s with fsm := .complete .invalidStride }
      else if s.dimN.toNat / 64 ≤ s.biI.toNat ∨ s.dimN.toNat / 64 ≤ s.bjJ.toNat then
        { s with fsm := .complete .coordRange }
      else { s with ci := s.biI, cj := s.bjJ, fsm := .cyc 0, row := 0 })

/-- R87, its checks: the check step of `ROTMAT` ends with the first of INVALID_DIMENSION, INVALID_STRIDE that applies, and
else begins phase 2 at block (0, 0) when n = 1 and phase 1 at cycle (0, 0) when not. -/
def Obligations.MatrixCommandChecks : Prop :=
  ∀ s : State, s.fsm = .check →
    exec .rotmat s = .next
      (if s.dimN.toNat = 0 ∨ s.dimN.toNat % 64 ≠ 0 then { s with fsm := .complete .invalidDimension }
      else if s.strideS.toNat < s.dimN.toNat / 8 then { s with fsm := .complete .invalidStride }
      else if s.dimN.toNat / 64 = 1 then
        { s with
          ph := .inBlock, ci := 0, cj := 0, ba := BitVec.ofNat 64 (s.baseAddr.toNat % 2 ^ s.aw),
          fsm := .load, row := 0 }
      else { s with ph := .relocation, ci := 0, cj := 0, fsm := .cyc 0, row := 0 })

/-- R81: the eight accesses of a 4-cycle row, in their order, when the platform accepts them, for `CYCLE4` and `ROTMAT`: the
first seven each change one register or store one row word, and go on to the next access. -/
def Obligations.CycleRowMovesWords : Prop :=
  ∀ s : State, ∀ aA aB aC aD : Nat,
    aA = (s.blockAddr s.ci.toNat s.cj.toNat + s.row.toNat * s.strideS.toNat) % 2 ^ s.aw →
    aB = (s.blockAddr s.cj.toNat (s.numBlocks - 1 - s.ci.toNat) + s.row.toNat * s.strideS.toNat) % 2 ^ s.aw →
    aC = (s.blockAddr (s.numBlocks - 1 - s.ci.toNat) (s.numBlocks - 1 - s.cj.toNat) +
      s.row.toNat * s.strideS.toNat) % 2 ^ s.aw →
    aD = (s.blockAddr (s.numBlocks - 1 - s.cj.toNat) s.ci.toNat + s.row.toNat * s.strideS.toNat) % 2 ^ s.aw →
    ∀ i, (i = .cycle4 ∨ i = .rotmat) →
    (s.fsm = .cyc 0 → s.memOk .read aA = true →
      exec i s = .next { s with tmp := s.memRead aA, fsm := .cyc 1 }) ∧
    (s.fsm = .cyc 1 → s.memOk .read aD = true →
      exec i s = .next { s with dr := s.memRead aD, fsm := .cyc 2 }) ∧
    (s.fsm = .cyc 2 → s.memOk .write aA = true →
      exec i s = .next { s.memWrite aA s.dr with fsm := .cyc 3 }) ∧
    (s.fsm = .cyc 3 → s.memOk .read aC = true →
      exec i s = .next { s with dr := s.memRead aC, fsm := .cyc 4 }) ∧
    (s.fsm = .cyc 4 → s.memOk .write aD = true →
      exec i s = .next { s.memWrite aD s.dr with fsm := .cyc 5 }) ∧
    (s.fsm = .cyc 5 → s.memOk .read aB = true →
      exec i s = .next { s with dr := s.memRead aB, fsm := .cyc 6 }) ∧
    (s.fsm = .cyc 6 → s.memOk .write aC = true →
      exec i s = .next { s.memWrite aC s.dr with fsm := .cyc 7 }) ∧
    (s.fsm = .cyc 7 → s.memOk .write aB = true → s.row ≠ 63 →
      exec i s = .next { s.memWrite aB s.tmp with fsm := .cyc 0, row := s.row + 1 })

/-- 44_control.md section 3: after the last access of the last row of a 4-cycle, `CYCLE4` completes, and `ROTMAT` goes to the
next 4-cycle of its range, or to phase 2 at block (0, 0) after the last. -/
def Obligations.CycleEndsOrGoesOn : Prop :=
  ∀ s : State, ∀ a : Nat,
    a = (s.blockAddr s.cj.toNat (s.numBlocks - 1 - s.ci.toNat) + 63 * s.strideS.toNat) % 2 ^ s.aw →
    s.fsm = .cyc 7 → s.row = 63 → s.memOk .write a = true →
    exec .cycle4 s = .next { s.memWrite a s.tmp with fsm := .complete .none } ∧
    (s.ci.toNat < (s.dimN.toNat / 64 + 1) / 2 → s.cj.toNat < s.dimN.toNat / 64 / 2 →
      (s.cj.toNat + 1 < s.dimN.toNat / 64 / 2 →
        exec .rotmat s = .next { s.memWrite a s.tmp with cj := s.cj + 1, fsm := .cyc 0, row := 0 }) ∧
      (s.cj.toNat + 1 = s.dimN.toNat / 64 / 2 → s.ci.toNat + 1 < (s.dimN.toNat / 64 + 1) / 2 →
        exec .rotmat s = .next { s.memWrite a s.tmp with ci := s.ci + 1, cj := 0, fsm := .cyc 0, row := 0 }) ∧
      (s.cj.toNat + 1 = s.dimN.toNat / 64 / 2 → s.ci.toNat + 1 = (s.dimN.toNat / 64 + 1) / 2 →
        exec .rotmat s = .next { s.memWrite a s.tmp with
          ph := .inBlock, ci := 0, cj := 0, ba := BitVec.ofNat 64 (s.baseAddr.toNat % 2 ^ s.aw),
          fsm := .load, row := 0 }))

/-! ## Errors -/

/-- R104: the check step of an illegal word ends it with ILLEGAL_COMMAND, and no memory and no CSR but `STATUS` changes. -/
def Obligations.IllegalWordEndsAtCheck : Prop :=
  ∀ s : State, s.fsm = .check → s.schedule = [] → (s.op.toNat / 16 ≠ 0 ∨ 8 ≤ s.op.toNat % 16) →
    step s = .next { s with fsm := .complete .illegalCommand } ∧
    stepsTo 2 s { s with busy := false, done := true, errcode := 0x01, fsm := .idle }

/-- 60_exceptions.md sections 1 to 3: `CYCLE4` and `ROTMAT` that fail a check end in two steps with the first code that
applies, and nothing but `STATUS` has changed. -/
def Obligations.FailedChecksTouchNothing : Prop :=
  ∀ s : State,
    (s.issued .cycle4 →
      (s.dimN.toNat = 0 ∨ s.dimN.toNat % 64 ≠ 0 → stepsTo 2 s (s.ended .invalidDimension)) ∧
      (s.dimN.toNat ≠ 0 → s.dimN.toNat % 64 = 0 → s.strideS.toNat < s.dimN.toNat / 8 →
        stepsTo 2 s (s.ended .invalidStride)) ∧
      (s.dimN.toNat ≠ 0 → s.dimN.toNat % 64 = 0 → s.dimN.toNat / 8 ≤ s.strideS.toNat →
        s.dimN.toNat / 64 ≤ s.biI.toNat ∨ s.dimN.toNat / 64 ≤ s.bjJ.toNat → stepsTo 2 s (s.ended .coordRange))) ∧
    (s.issued .rotmat →
      (s.dimN.toNat = 0 ∨ s.dimN.toNat % 64 ≠ 0 → stepsTo 2 s (s.ended .invalidDimension)) ∧
      (s.dimN.toNat ≠ 0 → s.dimN.toNat % 64 = 0 → s.strideS.toNat < s.dimN.toNat / 8 →
        stepsTo 2 s (s.ended .invalidStride)))

/-- R108: an access that the platform refuses has no effect: the step writes its start address to `FAULTADDR` and moves to
COMPLETE(BUS_ERROR), memory and every other CSR are unchanged, and `BRF`, `TMP`, `DR` may be anything. -/
def Obligations.RefusedAccessEndsCommand : Prop :=
  ∀ (s : State) (i : Instr) (a : Nat),
    ((s.fsm = .load ∧ (i = .tpose ∨ i = .rotblk ∨ i = .rotmat) ∧ a = s.currentRowAddr ∧ s.memOk .read a = false) ∨
      (s.fsm = .store ∧ (i = .tpose ∨ i = .rotblk ∨ i = .rotmat) ∧ a = s.currentRowAddr ∧
        s.memOk .write a = false) ∨
      (∃ k, s.fsm = .cyc k ∧ (i = .cycle4 ∨ i = .rotmat) ∧ a = s.cycAddr k ∧
        s.memOk (cycleAccess k).kind a = false)) →
    ∃ (brf : BlockRegs) (tmp dr : Word) (draws : Nat),
      exec i s = .next { s with
        faultAddr := BitVec.ofNat 64 a, fsm := .complete .busError,
        brf := brf, tmp := tmp, dr := dr, draws := draws }

/-! ## Whole-machine rules -/

/-- 10_state.md section 2: no step of the core, of any command in any state, writes an operand CSR, `OVR`, a parameter, or
what is scheduled. -/
def Obligations.CoreNeverWritesOperands : Prop :=
  ∀ s t : State, coreStep s = .next t →
    t.dimN = s.dimN ∧ t.baseAddr = s.baseAddr ∧ t.strideS = s.strideS ∧ t.biI = s.biI ∧ t.bjJ = s.bjJ ∧
    t.operandX = s.operandX ∧ t.ovr = s.ovr ∧ t.op = s.op ∧ t.aw = s.aw ∧ t.refusals = s.refusals ∧
    t.schedule = s.schedule

/-- 10_state.md section 2: a core step that changes `RESULT` is the check step of `FREV`, `BREV` or `BADDR`; one that changes
`FAULTADDR` goes to COMPLETE(BUS_ERROR); one that changes memory is a STORE step or a writing access of a 4-cycle row. -/
def Obligations.CoreWritesResultsOnlyWhere : Prop :=
  ∀ s t : State, coreStep s = .next t →
    (t.resultY ≠ s.resultY →
      s.fsm = .check ∧ (decode s.op = .ok .frev ∨ decode s.op = .ok .brev ∨ decode s.op = .ok .baddr)) ∧
    (t.faultAddr ≠ s.faultAddr → t.fsm = .complete .busError) ∧
    (t.mem ≠ s.mem → s.fsm = .store ∨ ∃ k, s.fsm = .cyc k ∧ (cycleAccess k).kind = .write)

/-- R45: a step of the core leaves every byte outside the running command's footprint as it is. -/
def Obligations.CoreStaysInFootprint : Prop :=
  ∀ s t : State, s.Inv → coreStep s = .next t → ∀ a, a ∉ s.footprint → t.readByte a = s.readByte a

/-- 44_control.md sections 3 and 4: in every state that meets the invariant the core's step is enabled: it answers a next
state, so no command hangs. -/
def Obligations.CoreStepNeverStops : Prop :=
  ∀ s : State, s.Inv → ∃ t, coreStep s = .next t

/-- The invariant that every transition keeps: the core's, the host's, and reset. -/
def Obligations.EveryStepKeepsInvariant : Prop :=
  ∀ s t : State, s.Inv → step s = .next t → t.Inv

/-- The invariant holds after reset. That memory is empty and the width is 64 there is the model's choice (log 2, log 4). -/
def Obligations.ResetMeetsInvariant : Prop := State.reset.Inv

/-! ## Reset and the outside world -/

/-- R34: after reset every CSR reads 0 and the FSM is idle. -/
def Obligations.ResetClearsCsrs : Prop :=
  (∀ off : CsrOffset, State.reset.csrRead off = 0) ∧ State.reset.fsm = .idle ∧
  State.reset.busy = false ∧ State.reset.done = false ∧ State.reset.ovr = false ∧ State.reset.errcode = 0 ∧
  State.reset.dimN = 0 ∧ State.reset.baseAddr = 0 ∧ State.reset.strideS = 0 ∧ State.reset.biI = 0 ∧
  State.reset.bjJ = 0 ∧ State.reset.operandX = 0 ∧ State.reset.resultY = 0 ∧ State.reset.faultAddr = 0

/-- 70_reset_and_hazards.md section 1: reset may come in any state; it sets every CSR to 0 and the FSM to idle, changes no
byte of memory when no command runs, and else none outside the abandoned command's footprint. -/
def Obligations.ResetAbandonsCommand : Prop :=
  ∀ (s : State) (rest : List Event), s.schedule = .reset :: rest → ∃ t, step s = .next t ∧
    (∀ off : CsrOffset, t.csrRead off = 0) ∧ t.fsm = .idle ∧ t.schedule = rest ∧ t.aw = s.aw ∧
    t.refusals = s.refusals ∧
    (s.busy = false → ∀ a, t.readByte a = s.readByte a) ∧
    (∀ a, a ∉ s.footprint → t.readByte a = s.readByte a)

/-- 70_reset_and_hazards.md section 3: while a command runs, a host write that meets its footprint is refused; one that does
not, and any when the core is idle, writes its bytes and nothing else. That an access past the address space faults is the
model's choice (log 11). -/
def Obligations.OutsideWritesRespectFootprint : Prop :=
  ∀ (s : State) (a : Nat) (bytes : List Byte) (rest : List Event), s.schedule = .memWrite a bytes :: rest →
    a + bytes.length ≤ 2 ^ s.aw →
    (s.busy = true → (∃ g < bytes.length, a + g ∈ s.footprint) → step s = .refused .footprintBusy) ∧
    (s.busy = false ∨ (∀ g < bytes.length, a + g ∉ s.footprint) →
      ∃ t, step s = .next t ∧ t = { s with mem := t.mem, schedule := rest } ∧
        ∀ b, t.readByte b = if a ≤ b ∧ b < a + bytes.length then bytes.getD (b - a) 0 else s.readByte b)

/-! ## Whole commands -/

/-- 41_block_rotator.md sections 3 and 4: `ROTBLK`, run from its check step, takes 131 steps, ends with code NONE, has
rotated the block 90 degrees clockwise, and has changed no byte outside the block. -/
def Obligations.RotblkRotatesBlock : Prop :=
  ∀ s : State, s.issued .rotblk → 16 ≤ s.aw → s.aw ≤ 64 → s.footprintAccepted →
    ∀ A, A = s.blockAddr s.biI.toNat s.bjJ.toNat → s.blockLiesFlat A →
    ∃ t, stepsTo 131 s t ∧ t.endsFrom s .none ∧
      (∀ i < 64, ∀ j < 64, t.blockBit A i j = s.blockBit A (63 - j) i) ∧
      ∀ a, a ∉ s.footprint → t.readByte a = s.readByte a

/-- 41_block_rotator.md section 4: `TPOSE`, run from its check step, takes 131 steps, ends with code NONE, has moved block bit
`(c ^ 56, r ^ 56)` to `(r, c)`, and has changed no byte outside the block. -/
def Obligations.TposeTransposesBlock : Prop :=
  ∀ s : State, s.issued .tpose → 16 ≤ s.aw → s.aw ≤ 64 → s.footprintAccepted →
    ∀ A, A = s.blockAddr s.biI.toNat s.bjJ.toNat → s.blockLiesFlat A →
    ∃ t, stepsTo 131 s t ∧ t.endsFrom s .none ∧
      (∀ r < 64, ∀ c < 64, t.blockBit A r c = s.blockBit A (c ^^^ 56) (r ^^^ 56)) ∧
      ∀ a, a ∉ s.footprint → t.readByte a = s.readByte a

/-- 41_block_rotator.md section 4, overlapping rows: with stride 0 the one row word W ends as all ones or 0, by its bit 56
for `ROTBLK`, by its bit 0 for `TPOSE`. -/
def Obligations.ZeroStrideKeepsOneBit : Prop :=
  ∀ s : State, 16 ≤ s.aw → s.aw ≤ 64 → s.footprintAccepted → s.strideS = 0 →
    ∀ A, A = s.blockAddr s.biI.toNat s.bjJ.toNat →
    (s.issued .rotblk → ∃ t, stepsTo 131 s t ∧ t.endsFrom s .none ∧
      t.memRead A = if (s.memRead A).getLsbD 56 then 0xFFFFFFFFFFFFFFFF else 0) ∧
    (s.issued .tpose → ∃ t, stepsTo 131 s t ∧ t.endsFrom s .none ∧
      t.memRead A = if (s.memRead A).getLsbD 0 then 0xFFFFFFFFFFFFFFFF else 0)

/-- 43_matrix_driver.md section 2: `CYCLE4` that passes its checks takes 514 steps, ends with code NONE, has moved the
content of the four blocks one place along the cycle (D to A, C to D, B to C, A to B), and has changed no byte outside
them. At the centre the four are one block, which is unchanged. -/
def Obligations.CycleMovesFourBlocks : Prop :=
  ∀ s : State, s.issued .cycle4 → s.cycleCheck = .none → 16 ≤ s.aw → s.footprintAccepted → s.matrixLiesFlat →
    ∀ corner : CycleCell → Nat,
    (∀ p, corner p = s.blockAddr (cycleCoords s.numBlocks s.biI.toNat s.bjJ.toNat p).1
      (cycleCoords s.numBlocks s.biI.toNat s.bjJ.toNat p).2) →
    ∃ t, stepsTo 514 s t ∧ t.endsFrom s .none ∧
      (∀ r < 64, ∀ c < 64,
        t.blockBit (corner .cellA) r c = s.blockBit (corner .cellD) r c ∧
        t.blockBit (corner .cellD) r c = s.blockBit (corner .cellC) r c ∧
        t.blockBit (corner .cellC) r c = s.blockBit (corner .cellB) r c ∧
        t.blockBit (corner .cellB) r c = s.blockBit (corner .cellA) r c) ∧
      ∀ a, a ∉ s.footprint → t.readByte a = s.readByte a

/-- 43_matrix_driver.md section 3: `ROTMAT` that passes its checks takes `2 + 512c + 129n²` steps, ends with code NONE, has
rotated the whole matrix 90 degrees clockwise, and has changed no byte outside it, padding included. -/
def Obligations.RotmatRotatesMatrix : Prop :=
  ∀ s : State, s.issued .rotmat → s.matrixCheck = .none → 16 ≤ s.aw → s.aw ≤ 64 → s.footprintAccepted →
    s.matrixLiesFlat →
    ∃ t, stepsTo (2 + 512 * s.numCycles + 129 * (s.numBlocks * s.numBlocks)) s t ∧ t.endsFrom s .none ∧
      (∀ i < s.dimN.toNat, ∀ j < s.dimN.toNat, t.matrixBit i j = s.matrixBit (s.dimN.toNat - 1 - j) i) ∧
      ∀ a, a ∉ s.footprint → t.readByte a = s.readByte a
end

