-- ==== Sys2Proof/Laws/State.lean ====
section
/-! SUPPORT. What each shared update of the state leaves in each field, so that no proof unfolds a record update. -/

namespace Sys2Proof.Machine

/-! ### `raise` -/

@[simp] theorem raise_busy (code : ErrCode) (s : State) : (raise code s).busy = s.busy := rfl
@[simp] theorem raise_done (code : ErrCode) (s : State) : (raise code s).done = s.done := rfl
@[simp] theorem raise_ovr (code : ErrCode) (s : State) : (raise code s).ovr = s.ovr := rfl
@[simp] theorem raise_errcode (code : ErrCode) (s : State) : (raise code s).errcode = s.errcode := rfl
@[simp] theorem raise_dimN (code : ErrCode) (s : State) : (raise code s).dimN = s.dimN := rfl
@[simp] theorem raise_baseAddr (code : ErrCode) (s : State) : (raise code s).baseAddr = s.baseAddr := rfl
@[simp] theorem raise_strideS (code : ErrCode) (s : State) : (raise code s).strideS = s.strideS := rfl
@[simp] theorem raise_biI (code : ErrCode) (s : State) : (raise code s).biI = s.biI := rfl
@[simp] theorem raise_bjJ (code : ErrCode) (s : State) : (raise code s).bjJ = s.bjJ := rfl
@[simp] theorem raise_operandX (code : ErrCode) (s : State) : (raise code s).operandX = s.operandX := rfl
@[simp] theorem raise_resultY (code : ErrCode) (s : State) : (raise code s).resultY = s.resultY := rfl
@[simp] theorem raise_faultAddr (code : ErrCode) (s : State) : (raise code s).faultAddr = s.faultAddr := rfl
@[simp] theorem raise_fsm (code : ErrCode) (s : State) : (raise code s).fsm = .complete code := rfl
@[simp] theorem raise_op (code : ErrCode) (s : State) : (raise code s).op = s.op := rfl
@[simp] theorem raise_ci (code : ErrCode) (s : State) : (raise code s).ci = s.ci := rfl
@[simp] theorem raise_cj (code : ErrCode) (s : State) : (raise code s).cj = s.cj := rfl
@[simp] theorem raise_row (code : ErrCode) (s : State) : (raise code s).row = s.row := rfl
@[simp] theorem raise_ba (code : ErrCode) (s : State) : (raise code s).ba = s.ba := rfl
@[simp] theorem raise_ph (code : ErrCode) (s : State) : (raise code s).ph = s.ph := rfl
@[simp] theorem raise_brf (code : ErrCode) (s : State) : (raise code s).brf = s.brf := rfl
@[simp] theorem raise_tmp (code : ErrCode) (s : State) : (raise code s).tmp = s.tmp := rfl
@[simp] theorem raise_dr (code : ErrCode) (s : State) : (raise code s).dr = s.dr := rfl
@[simp] theorem raise_mem (code : ErrCode) (s : State) : (raise code s).mem = s.mem := rfl
@[simp] theorem raise_aw (code : ErrCode) (s : State) : (raise code s).aw = s.aw := rfl
@[simp] theorem raise_refusals (code : ErrCode) (s : State) : (raise code s).refusals = s.refusals := rfl
@[simp] theorem raise_schedule (code : ErrCode) (s : State) : (raise code s).schedule = s.schedule := rfl
@[simp] theorem raise_csrData (code : ErrCode) (s : State) : (raise code s).csrData = s.csrData := rfl
@[simp] theorem raise_memData (code : ErrCode) (s : State) : (raise code s).memData = s.memData := rfl
@[simp] theorem raise_resultHeld (code : ErrCode) (s : State) : (raise code s).resultHeld = s.resultHeld := rfl
@[simp] theorem raise_faultHeld (code : ErrCode) (s : State) : (raise code s).faultHeld = s.faultHeld := rfl
@[simp] theorem raise_draws (code : ErrCode) (s : State) : (raise code s).draws = s.draws := rfl

/-! ### `complete` -/

@[simp] theorem complete_busy (code : ErrCode) (s : State) : (complete code s).busy = false := rfl
@[simp] theorem complete_done (code : ErrCode) (s : State) : (complete code s).done = true := rfl
@[simp] theorem complete_ovr (code : ErrCode) (s : State) : (complete code s).ovr = s.ovr := rfl
@[simp] theorem complete_errcode (code : ErrCode) (s : State) : (complete code s).errcode = code.bits := rfl
@[simp] theorem complete_dimN (code : ErrCode) (s : State) : (complete code s).dimN = s.dimN := rfl
@[simp] theorem complete_baseAddr (code : ErrCode) (s : State) : (complete code s).baseAddr = s.baseAddr := rfl
@[simp] theorem complete_strideS (code : ErrCode) (s : State) : (complete code s).strideS = s.strideS := rfl
@[simp] theorem complete_biI (code : ErrCode) (s : State) : (complete code s).biI = s.biI := rfl
@[simp] theorem complete_bjJ (code : ErrCode) (s : State) : (complete code s).bjJ = s.bjJ := rfl
@[simp] theorem complete_operandX (code : ErrCode) (s : State) : (complete code s).operandX = s.operandX := rfl
@[simp] theorem complete_resultY (code : ErrCode) (s : State) : (complete code s).resultY = s.resultY := rfl
@[simp] theorem complete_faultAddr (code : ErrCode) (s : State) : (complete code s).faultAddr = s.faultAddr := rfl
@[simp] theorem complete_fsm (code : ErrCode) (s : State) : (complete code s).fsm = .idle := rfl
@[simp] theorem complete_op (code : ErrCode) (s : State) : (complete code s).op = s.op := rfl
@[simp] theorem complete_ci (code : ErrCode) (s : State) : (complete code s).ci = s.ci := rfl
@[simp] theorem complete_cj (code : ErrCode) (s : State) : (complete code s).cj = s.cj := rfl
@[simp] theorem complete_row (code : ErrCode) (s : State) : (complete code s).row = s.row := rfl
@[simp] theorem complete_ba (code : ErrCode) (s : State) : (complete code s).ba = s.ba := rfl
@[simp] theorem complete_ph (code : ErrCode) (s : State) : (complete code s).ph = s.ph := rfl
@[simp] theorem complete_brf (code : ErrCode) (s : State) : (complete code s).brf = s.brf := rfl
@[simp] theorem complete_tmp (code : ErrCode) (s : State) : (complete code s).tmp = s.tmp := rfl
@[simp] theorem complete_dr (code : ErrCode) (s : State) : (complete code s).dr = s.dr := rfl
@[simp] theorem complete_mem (code : ErrCode) (s : State) : (complete code s).mem = s.mem := rfl
@[simp] theorem complete_aw (code : ErrCode) (s : State) : (complete code s).aw = s.aw := rfl
@[simp] theorem complete_refusals (code : ErrCode) (s : State) : (complete code s).refusals = s.refusals := rfl
@[simp] theorem complete_schedule (code : ErrCode) (s : State) : (complete code s).schedule = s.schedule := rfl
@[simp] theorem complete_csrData (code : ErrCode) (s : State) : (complete code s).csrData = s.csrData := rfl
@[simp] theorem complete_memData (code : ErrCode) (s : State) : (complete code s).memData = s.memData := rfl
@[simp] theorem complete_resultHeld (code : ErrCode) (s : State) : (complete code s).resultHeld = s.resultHeld := rfl
@[simp] theorem complete_faultHeld (code : ErrCode) (s : State) : (complete code s).faultHeld = s.faultHeld := rfl
@[simp] theorem complete_draws (code : ErrCode) (s : State) : (complete code s).draws = s.draws := rfl

/-! ### `drawData` -/

@[simp] theorem drawData_busy (s : State) : (drawData s).busy = s.busy := rfl
@[simp] theorem drawData_done (s : State) : (drawData s).done = s.done := rfl
@[simp] theorem drawData_ovr (s : State) : (drawData s).ovr = s.ovr := rfl
@[simp] theorem drawData_errcode (s : State) : (drawData s).errcode = s.errcode := rfl
@[simp] theorem drawData_dimN (s : State) : (drawData s).dimN = s.dimN := rfl
@[simp] theorem drawData_baseAddr (s : State) : (drawData s).baseAddr = s.baseAddr := rfl
@[simp] theorem drawData_strideS (s : State) : (drawData s).strideS = s.strideS := rfl
@[simp] theorem drawData_biI (s : State) : (drawData s).biI = s.biI := rfl
@[simp] theorem drawData_bjJ (s : State) : (drawData s).bjJ = s.bjJ := rfl
@[simp] theorem drawData_operandX (s : State) : (drawData s).operandX = s.operandX := rfl
@[simp] theorem drawData_resultY (s : State) : (drawData s).resultY = s.resultY := rfl
@[simp] theorem drawData_faultAddr (s : State) : (drawData s).faultAddr = s.faultAddr := rfl
@[simp] theorem drawData_fsm (s : State) : (drawData s).fsm = s.fsm := rfl
@[simp] theorem drawData_op (s : State) : (drawData s).op = s.op := rfl
@[simp] theorem drawData_ci (s : State) : (drawData s).ci = s.ci := rfl
@[simp] theorem drawData_cj (s : State) : (drawData s).cj = s.cj := rfl
@[simp] theorem drawData_row (s : State) : (drawData s).row = s.row := rfl
@[simp] theorem drawData_ba (s : State) : (drawData s).ba = s.ba := rfl
@[simp] theorem drawData_ph (s : State) : (drawData s).ph = s.ph := rfl
@[simp] theorem drawData_brf (s : State) : (drawData s).brf = drawnRegs s.draws := rfl
@[simp] theorem drawData_tmp (s : State) : (drawData s).tmp = Config.freeWord s.draws 64 := rfl
@[simp] theorem drawData_dr (s : State) : (drawData s).dr = Config.freeWord s.draws 65 := rfl
@[simp] theorem drawData_mem (s : State) : (drawData s).mem = s.mem := rfl
@[simp] theorem drawData_aw (s : State) : (drawData s).aw = s.aw := rfl
@[simp] theorem drawData_refusals (s : State) : (drawData s).refusals = s.refusals := rfl
@[simp] theorem drawData_schedule (s : State) : (drawData s).schedule = s.schedule := rfl
@[simp] theorem drawData_csrData (s : State) : (drawData s).csrData = s.csrData := rfl
@[simp] theorem drawData_memData (s : State) : (drawData s).memData = s.memData := rfl
@[simp] theorem drawData_resultHeld (s : State) : (drawData s).resultHeld = s.resultHeld := rfl
@[simp] theorem drawData_faultHeld (s : State) : (drawData s).faultHeld = s.faultHeld := rfl
@[simp] theorem drawData_draws (s : State) : (drawData s).draws = s.draws + 1 := rfl

/-! ### `busError` -/

@[simp] theorem busError_busy (a : Nat) (s : State) : (busError a s).busy = s.busy := rfl
@[simp] theorem busError_done (a : Nat) (s : State) : (busError a s).done = s.done := rfl
@[simp] theorem busError_ovr (a : Nat) (s : State) : (busError a s).ovr = s.ovr := rfl
@[simp] theorem busError_errcode (a : Nat) (s : State) : (busError a s).errcode = s.errcode := rfl
@[simp] theorem busError_dimN (a : Nat) (s : State) : (busError a s).dimN = s.dimN := rfl
@[simp] theorem busError_baseAddr (a : Nat) (s : State) : (busError a s).baseAddr = s.baseAddr := rfl
@[simp] theorem busError_strideS (a : Nat) (s : State) : (busError a s).strideS = s.strideS := rfl
@[simp] theorem busError_biI (a : Nat) (s : State) : (busError a s).biI = s.biI := rfl
@[simp] theorem busError_bjJ (a : Nat) (s : State) : (busError a s).bjJ = s.bjJ := rfl
@[simp] theorem busError_operandX (a : Nat) (s : State) : (busError a s).operandX = s.operandX := rfl
@[simp] theorem busError_resultY (a : Nat) (s : State) : (busError a s).resultY = s.resultY := rfl
@[simp] theorem busError_faultAddr (a : Nat) (s : State) : (busError a s).faultAddr = BitVec.ofNat 64 a := rfl
@[simp] theorem busError_fsm (a : Nat) (s : State) : (busError a s).fsm = .complete .busError := rfl
@[simp] theorem busError_op (a : Nat) (s : State) : (busError a s).op = s.op := rfl
@[simp] theorem busError_ci (a : Nat) (s : State) : (busError a s).ci = s.ci := rfl
@[simp] theorem busError_cj (a : Nat) (s : State) : (busError a s).cj = s.cj := rfl
@[simp] theorem busError_row (a : Nat) (s : State) : (busError a s).row = s.row := rfl
@[simp] theorem busError_ba (a : Nat) (s : State) : (busError a s).ba = s.ba := rfl
@[simp] theorem busError_ph (a : Nat) (s : State) : (busError a s).ph = s.ph := rfl
@[simp] theorem busError_brf (a : Nat) (s : State) : (busError a s).brf = drawnRegs s.draws := rfl
@[simp] theorem busError_tmp (a : Nat) (s : State) : (busError a s).tmp = Config.freeWord s.draws 64 := rfl
@[simp] theorem busError_dr (a : Nat) (s : State) : (busError a s).dr = Config.freeWord s.draws 65 := rfl
@[simp] theorem busError_mem (a : Nat) (s : State) : (busError a s).mem = s.mem := rfl
@[simp] theorem busError_aw (a : Nat) (s : State) : (busError a s).aw = s.aw := rfl
@[simp] theorem busError_refusals (a : Nat) (s : State) : (busError a s).refusals = s.refusals := rfl
@[simp] theorem busError_schedule (a : Nat) (s : State) : (busError a s).schedule = s.schedule := rfl
@[simp] theorem busError_csrData (a : Nat) (s : State) : (busError a s).csrData = s.csrData := rfl
@[simp] theorem busError_memData (a : Nat) (s : State) : (busError a s).memData = s.memData := rfl
@[simp] theorem busError_resultHeld (a : Nat) (s : State) : (busError a s).resultHeld = s.resultHeld := rfl
@[simp] theorem busError_faultHeld (a : Nat) (s : State) : (busError a s).faultHeld = s.faultHeld := rfl
@[simp] theorem busError_draws (a : Nat) (s : State) : (busError a s).draws = s.draws + 1 := rfl

/-! ### `enter` -/

@[simp] theorem enter_busy (f : Fsm) (r : BitVec 6) (s : State) : (enter f r s).busy = s.busy := rfl
@[simp] theorem enter_done (f : Fsm) (r : BitVec 6) (s : State) : (enter f r s).done = s.done := rfl
@[simp] theorem enter_ovr (f : Fsm) (r : BitVec 6) (s : State) : (enter f r s).ovr = s.ovr := rfl
@[simp] theorem enter_errcode (f : Fsm) (r : BitVec 6) (s : State) : (enter f r s).errcode = s.errcode := rfl
@[simp] theorem enter_dimN (f : Fsm) (r : BitVec 6) (s : State) : (enter f r s).dimN = s.dimN := rfl
@[simp] theorem enter_baseAddr (f : Fsm) (r : BitVec 6) (s : State) : (enter f r s).baseAddr = s.baseAddr := rfl
@[simp] theorem enter_strideS (f : Fsm) (r : BitVec 6) (s : State) : (enter f r s).strideS = s.strideS := rfl
@[simp] theorem enter_biI (f : Fsm) (r : BitVec 6) (s : State) : (enter f r s).biI = s.biI := rfl
@[simp] theorem enter_bjJ (f : Fsm) (r : BitVec 6) (s : State) : (enter f r s).bjJ = s.bjJ := rfl
@[simp] theorem enter_operandX (f : Fsm) (r : BitVec 6) (s : State) : (enter f r s).operandX = s.operandX := rfl
@[simp] theorem enter_resultY (f : Fsm) (r : BitVec 6) (s : State) : (enter f r s).resultY = s.resultY := rfl
@[simp] theorem enter_faultAddr (f : Fsm) (r : BitVec 6) (s : State) : (enter f r s).faultAddr = s.faultAddr := rfl
@[simp] theorem enter_fsm (f : Fsm) (r : BitVec 6) (s : State) : (enter f r s).fsm = f := rfl
@[simp] theorem enter_op (f : Fsm) (r : BitVec 6) (s : State) : (enter f r s).op = s.op := rfl
@[simp] theorem enter_ci (f : Fsm) (r : BitVec 6) (s : State) : (enter f r s).ci = s.ci := rfl
@[simp] theorem enter_cj (f : Fsm) (r : BitVec 6) (s : State) : (enter f r s).cj = s.cj := rfl
@[simp] theorem enter_row (f : Fsm) (r : BitVec 6) (s : State) : (enter f r s).row = r := rfl
@[simp] theorem enter_ba (f : Fsm) (r : BitVec 6) (s : State) : (enter f r s).ba = s.ba := rfl
@[simp] theorem enter_ph (f : Fsm) (r : BitVec 6) (s : State) : (enter f r s).ph = s.ph := rfl
@[simp] theorem enter_brf (f : Fsm) (r : BitVec 6) (s : State) : (enter f r s).brf = s.brf := rfl
@[simp] theorem enter_tmp (f : Fsm) (r : BitVec 6) (s : State) : (enter f r s).tmp = s.tmp := rfl
@[simp] theorem enter_dr (f : Fsm) (r : BitVec 6) (s : State) : (enter f r s).dr = s.dr := rfl
@[simp] theorem enter_mem (f : Fsm) (r : BitVec 6) (s : State) : (enter f r s).mem = s.mem := rfl
@[simp] theorem enter_aw (f : Fsm) (r : BitVec 6) (s : State) : (enter f r s).aw = s.aw := rfl
@[simp] theorem enter_refusals (f : Fsm) (r : BitVec 6) (s : State) : (enter f r s).refusals = s.refusals := rfl
@[simp] theorem enter_schedule (f : Fsm) (r : BitVec 6) (s : State) : (enter f r s).schedule = s.schedule := rfl
@[simp] theorem enter_csrData (f : Fsm) (r : BitVec 6) (s : State) : (enter f r s).csrData = s.csrData := rfl
@[simp] theorem enter_memData (f : Fsm) (r : BitVec 6) (s : State) : (enter f r s).memData = s.memData := rfl
@[simp] theorem enter_resultHeld (f : Fsm) (r : BitVec 6) (s : State) : (enter f r s).resultHeld = s.resultHeld := rfl
@[simp] theorem enter_faultHeld (f : Fsm) (r : BitVec 6) (s : State) : (enter f r s).faultHeld = s.faultHeld := rfl
@[simp] theorem enter_draws (f : Fsm) (r : BitVec 6) (s : State) : (enter f r s).draws = s.draws := rfl

/-! ### `enterBlock` -/

@[simp] theorem enterBlock_busy (i j : Field) (s : State) : (enterBlock i j s).busy = s.busy := rfl
@[simp] theorem enterBlock_done (i j : Field) (s : State) : (enterBlock i j s).done = s.done := rfl
@[simp] theorem enterBlock_ovr (i j : Field) (s : State) : (enterBlock i j s).ovr = s.ovr := rfl
@[simp] theorem enterBlock_errcode (i j : Field) (s : State) : (enterBlock i j s).errcode = s.errcode := rfl
@[simp] theorem enterBlock_dimN (i j : Field) (s : State) : (enterBlock i j s).dimN = s.dimN := rfl
@[simp] theorem enterBlock_baseAddr (i j : Field) (s : State) : (enterBlock i j s).baseAddr = s.baseAddr := rfl
@[simp] theorem enterBlock_strideS (i j : Field) (s : State) : (enterBlock i j s).strideS = s.strideS := rfl
@[simp] theorem enterBlock_biI (i j : Field) (s : State) : (enterBlock i j s).biI = s.biI := rfl
@[simp] theorem enterBlock_bjJ (i j : Field) (s : State) : (enterBlock i j s).bjJ = s.bjJ := rfl
@[simp] theorem enterBlock_operandX (i j : Field) (s : State) : (enterBlock i j s).operandX = s.operandX := rfl
@[simp] theorem enterBlock_resultY (i j : Field) (s : State) : (enterBlock i j s).resultY = s.resultY := rfl
@[simp] theorem enterBlock_faultAddr (i j : Field) (s : State) : (enterBlock i j s).faultAddr = s.faultAddr := rfl
@[simp] theorem enterBlock_fsm (i j : Field) (s : State) : (enterBlock i j s).fsm = .load := rfl
@[simp] theorem enterBlock_op (i j : Field) (s : State) : (enterBlock i j s).op = s.op := rfl
@[simp] theorem enterBlock_ci (i j : Field) (s : State) : (enterBlock i j s).ci = i := rfl
@[simp] theorem enterBlock_cj (i j : Field) (s : State) : (enterBlock i j s).cj = j := rfl
@[simp] theorem enterBlock_row (i j : Field) (s : State) : (enterBlock i j s).row = 0 := rfl
@[simp] theorem enterBlock_ba (i j : Field) (s : State) : (enterBlock i j s).ba = s.truncWord (s.blockAddr i.toNat j.toNat) := rfl
@[simp] theorem enterBlock_ph (i j : Field) (s : State) : (enterBlock i j s).ph = s.ph := rfl
@[simp] theorem enterBlock_brf (i j : Field) (s : State) : (enterBlock i j s).brf = s.brf := rfl
@[simp] theorem enterBlock_tmp (i j : Field) (s : State) : (enterBlock i j s).tmp = s.tmp := rfl
@[simp] theorem enterBlock_dr (i j : Field) (s : State) : (enterBlock i j s).dr = s.dr := rfl
@[simp] theorem enterBlock_mem (i j : Field) (s : State) : (enterBlock i j s).mem = s.mem := rfl
@[simp] theorem enterBlock_aw (i j : Field) (s : State) : (enterBlock i j s).aw = s.aw := rfl
@[simp] theorem enterBlock_refusals (i j : Field) (s : State) : (enterBlock i j s).refusals = s.refusals := rfl
@[simp] theorem enterBlock_schedule (i j : Field) (s : State) : (enterBlock i j s).schedule = s.schedule := rfl
@[simp] theorem enterBlock_csrData (i j : Field) (s : State) : (enterBlock i j s).csrData = s.csrData := rfl
@[simp] theorem enterBlock_memData (i j : Field) (s : State) : (enterBlock i j s).memData = s.memData := rfl
@[simp] theorem enterBlock_resultHeld (i j : Field) (s : State) : (enterBlock i j s).resultHeld = s.resultHeld := rfl
@[simp] theorem enterBlock_faultHeld (i j : Field) (s : State) : (enterBlock i j s).faultHeld = s.faultHeld := rfl
@[simp] theorem enterBlock_draws (i j : Field) (s : State) : (enterBlock i j s).draws = s.draws := rfl

/-! ### `xformStep` -/

@[simp] theorem xformStep_busy (s : State) : (xformStep s).busy = s.busy := rfl
@[simp] theorem xformStep_done (s : State) : (xformStep s).done = s.done := rfl
@[simp] theorem xformStep_ovr (s : State) : (xformStep s).ovr = s.ovr := rfl
@[simp] theorem xformStep_errcode (s : State) : (xformStep s).errcode = s.errcode := rfl
@[simp] theorem xformStep_dimN (s : State) : (xformStep s).dimN = s.dimN := rfl
@[simp] theorem xformStep_baseAddr (s : State) : (xformStep s).baseAddr = s.baseAddr := rfl
@[simp] theorem xformStep_strideS (s : State) : (xformStep s).strideS = s.strideS := rfl
@[simp] theorem xformStep_biI (s : State) : (xformStep s).biI = s.biI := rfl
@[simp] theorem xformStep_bjJ (s : State) : (xformStep s).bjJ = s.bjJ := rfl
@[simp] theorem xformStep_operandX (s : State) : (xformStep s).operandX = s.operandX := rfl
@[simp] theorem xformStep_resultY (s : State) : (xformStep s).resultY = s.resultY := rfl
@[simp] theorem xformStep_faultAddr (s : State) : (xformStep s).faultAddr = s.faultAddr := rfl
@[simp] theorem xformStep_fsm (s : State) : (xformStep s).fsm = .store := rfl
@[simp] theorem xformStep_op (s : State) : (xformStep s).op = s.op := rfl
@[simp] theorem xformStep_ci (s : State) : (xformStep s).ci = s.ci := rfl
@[simp] theorem xformStep_cj (s : State) : (xformStep s).cj = s.cj := rfl
@[simp] theorem xformStep_row (s : State) : (xformStep s).row = 0 := rfl
@[simp] theorem xformStep_ba (s : State) : (xformStep s).ba = s.ba := rfl
@[simp] theorem xformStep_ph (s : State) : (xformStep s).ph = s.ph := rfl
@[simp] theorem xformStep_brf (s : State) : (xformStep s).brf = butterflyTranspose s.brf := rfl
@[simp] theorem xformStep_tmp (s : State) : (xformStep s).tmp = s.tmp := rfl
@[simp] theorem xformStep_dr (s : State) : (xformStep s).dr = s.dr := rfl
@[simp] theorem xformStep_mem (s : State) : (xformStep s).mem = s.mem := rfl
@[simp] theorem xformStep_aw (s : State) : (xformStep s).aw = s.aw := rfl
@[simp] theorem xformStep_refusals (s : State) : (xformStep s).refusals = s.refusals := rfl
@[simp] theorem xformStep_schedule (s : State) : (xformStep s).schedule = s.schedule := rfl
@[simp] theorem xformStep_csrData (s : State) : (xformStep s).csrData = s.csrData := rfl
@[simp] theorem xformStep_memData (s : State) : (xformStep s).memData = s.memData := rfl
@[simp] theorem xformStep_resultHeld (s : State) : (xformStep s).resultHeld = s.resultHeld := rfl
@[simp] theorem xformStep_faultHeld (s : State) : (xformStep s).faultHeld = s.faultHeld := rfl
@[simp] theorem xformStep_draws (s : State) : (xformStep s).draws = s.draws := rfl

/-! ### `memWrite` -/

@[simp] theorem memWrite_busy (a : Nat) (v : Word) (s : State) : (s.memWrite a v).busy = s.busy := rfl
@[simp] theorem memWrite_done (a : Nat) (v : Word) (s : State) : (s.memWrite a v).done = s.done := rfl
@[simp] theorem memWrite_ovr (a : Nat) (v : Word) (s : State) : (s.memWrite a v).ovr = s.ovr := rfl
@[simp] theorem memWrite_errcode (a : Nat) (v : Word) (s : State) : (s.memWrite a v).errcode = s.errcode := rfl
@[simp] theorem memWrite_dimN (a : Nat) (v : Word) (s : State) : (s.memWrite a v).dimN = s.dimN := rfl
@[simp] theorem memWrite_baseAddr (a : Nat) (v : Word) (s : State) : (s.memWrite a v).baseAddr = s.baseAddr := rfl
@[simp] theorem memWrite_strideS (a : Nat) (v : Word) (s : State) : (s.memWrite a v).strideS = s.strideS := rfl
@[simp] theorem memWrite_biI (a : Nat) (v : Word) (s : State) : (s.memWrite a v).biI = s.biI := rfl
@[simp] theorem memWrite_bjJ (a : Nat) (v : Word) (s : State) : (s.memWrite a v).bjJ = s.bjJ := rfl
@[simp] theorem memWrite_operandX (a : Nat) (v : Word) (s : State) : (s.memWrite a v).operandX = s.operandX := rfl
@[simp] theorem memWrite_resultY (a : Nat) (v : Word) (s : State) : (s.memWrite a v).resultY = s.resultY := rfl
@[simp] theorem memWrite_faultAddr (a : Nat) (v : Word) (s : State) : (s.memWrite a v).faultAddr = s.faultAddr := rfl
@[simp] theorem memWrite_fsm (a : Nat) (v : Word) (s : State) : (s.memWrite a v).fsm = s.fsm := rfl
@[simp] theorem memWrite_op (a : Nat) (v : Word) (s : State) : (s.memWrite a v).op = s.op := rfl
@[simp] theorem memWrite_ci (a : Nat) (v : Word) (s : State) : (s.memWrite a v).ci = s.ci := rfl
@[simp] theorem memWrite_cj (a : Nat) (v : Word) (s : State) : (s.memWrite a v).cj = s.cj := rfl
@[simp] theorem memWrite_row (a : Nat) (v : Word) (s : State) : (s.memWrite a v).row = s.row := rfl
@[simp] theorem memWrite_ba (a : Nat) (v : Word) (s : State) : (s.memWrite a v).ba = s.ba := rfl
@[simp] theorem memWrite_ph (a : Nat) (v : Word) (s : State) : (s.memWrite a v).ph = s.ph := rfl
@[simp] theorem memWrite_brf (a : Nat) (v : Word) (s : State) : (s.memWrite a v).brf = s.brf := rfl
@[simp] theorem memWrite_tmp (a : Nat) (v : Word) (s : State) : (s.memWrite a v).tmp = s.tmp := rfl
@[simp] theorem memWrite_dr (a : Nat) (v : Word) (s : State) : (s.memWrite a v).dr = s.dr := rfl
@[simp] theorem memWrite_mem (a : Nat) (v : Word) (s : State) : (s.memWrite a v).mem = s.mem.writeCells ((List.range 8).map fun g => (s.trunc (a + g), byteOf v g)) := rfl
@[simp] theorem memWrite_aw (a : Nat) (v : Word) (s : State) : (s.memWrite a v).aw = s.aw := rfl
@[simp] theorem memWrite_refusals (a : Nat) (v : Word) (s : State) : (s.memWrite a v).refusals = s.refusals := rfl
@[simp] theorem memWrite_schedule (a : Nat) (v : Word) (s : State) : (s.memWrite a v).schedule = s.schedule := rfl
@[simp] theorem memWrite_csrData (a : Nat) (v : Word) (s : State) : (s.memWrite a v).csrData = s.csrData := rfl
@[simp] theorem memWrite_memData (a : Nat) (v : Word) (s : State) : (s.memWrite a v).memData = s.memData := rfl
@[simp] theorem memWrite_resultHeld (a : Nat) (v : Word) (s : State) : (s.memWrite a v).resultHeld = s.resultHeld := rfl
@[simp] theorem memWrite_faultHeld (a : Nat) (v : Word) (s : State) : (s.memWrite a v).faultHeld = s.faultHeld := rfl
@[simp] theorem memWrite_draws (a : Nat) (v : Word) (s : State) : (s.memWrite a v).draws = s.draws := rfl

/-! ### `issue` -/

@[simp] theorem issue_busy (w : Word) (s : State) : (issue w s).busy = true := rfl
@[simp] theorem issue_done (w : Word) (s : State) : (issue w s).done = false := rfl
@[simp] theorem issue_ovr (w : Word) (s : State) : (issue w s).ovr = s.ovr := rfl
@[simp] theorem issue_errcode (w : Word) (s : State) : (issue w s).errcode = 0 := rfl
@[simp] theorem issue_dimN (w : Word) (s : State) : (issue w s).dimN = s.dimN := rfl
@[simp] theorem issue_baseAddr (w : Word) (s : State) : (issue w s).baseAddr = s.baseAddr := rfl
@[simp] theorem issue_strideS (w : Word) (s : State) : (issue w s).strideS = s.strideS := rfl
@[simp] theorem issue_biI (w : Word) (s : State) : (issue w s).biI = s.biI := rfl
@[simp] theorem issue_bjJ (w : Word) (s : State) : (issue w s).bjJ = s.bjJ := rfl
@[simp] theorem issue_operandX (w : Word) (s : State) : (issue w s).operandX = s.operandX := rfl
@[simp] theorem issue_resultY (w : Word) (s : State) : (issue w s).resultY = s.resultY := rfl
@[simp] theorem issue_faultAddr (w : Word) (s : State) : (issue w s).faultAddr = s.faultAddr := rfl
@[simp] theorem issue_fsm (w : Word) (s : State) : (issue w s).fsm = .check := rfl
@[simp] theorem issue_op (w : Word) (s : State) : (issue w s).op = w := rfl
@[simp] theorem issue_ci (w : Word) (s : State) : (issue w s).ci = s.ci := rfl
@[simp] theorem issue_cj (w : Word) (s : State) : (issue w s).cj = s.cj := rfl
@[simp] theorem issue_row (w : Word) (s : State) : (issue w s).row = s.row := rfl
@[simp] theorem issue_ba (w : Word) (s : State) : (issue w s).ba = s.ba := rfl
@[simp] theorem issue_ph (w : Word) (s : State) : (issue w s).ph = s.ph := rfl
@[simp] theorem issue_brf (w : Word) (s : State) : (issue w s).brf = s.brf := rfl
@[simp] theorem issue_tmp (w : Word) (s : State) : (issue w s).tmp = s.tmp := rfl
@[simp] theorem issue_dr (w : Word) (s : State) : (issue w s).dr = s.dr := rfl
@[simp] theorem issue_mem (w : Word) (s : State) : (issue w s).mem = s.mem := rfl
@[simp] theorem issue_aw (w : Word) (s : State) : (issue w s).aw = s.aw := rfl
@[simp] theorem issue_refusals (w : Word) (s : State) : (issue w s).refusals = s.refusals := rfl
@[simp] theorem issue_schedule (w : Word) (s : State) : (issue w s).schedule = s.schedule := rfl
@[simp] theorem issue_csrData (w : Word) (s : State) : (issue w s).csrData = s.csrData := rfl
@[simp] theorem issue_memData (w : Word) (s : State) : (issue w s).memData = s.memData := rfl
@[simp] theorem issue_resultHeld (w : Word) (s : State) : (issue w s).resultHeld = s.resultY := rfl
@[simp] theorem issue_faultHeld (w : Word) (s : State) : (issue w s).faultHeld = s.faultAddr := rfl
@[simp] theorem issue_draws (w : Word) (s : State) : (issue w s).draws = s.draws := rfl

/-! ### `dropWrite` -/

@[simp] theorem dropWrite_busy (s : State) : (dropWrite s).busy = s.busy := rfl
@[simp] theorem dropWrite_done (s : State) : (dropWrite s).done = s.done := rfl
@[simp] theorem dropWrite_ovr (s : State) : (dropWrite s).ovr = true := rfl
@[simp] theorem dropWrite_errcode (s : State) : (dropWrite s).errcode = s.errcode := rfl
@[simp] theorem dropWrite_dimN (s : State) : (dropWrite s).dimN = s.dimN := rfl
@[simp] theorem dropWrite_baseAddr (s : State) : (dropWrite s).baseAddr = s.baseAddr := rfl
@[simp] theorem dropWrite_strideS (s : State) : (dropWrite s).strideS = s.strideS := rfl
@[simp] theorem dropWrite_biI (s : State) : (dropWrite s).biI = s.biI := rfl
@[simp] theorem dropWrite_bjJ (s : State) : (dropWrite s).bjJ = s.bjJ := rfl
@[simp] theorem dropWrite_operandX (s : State) : (dropWrite s).operandX = s.operandX := rfl
@[simp] theorem dropWrite_resultY (s : State) : (dropWrite s).resultY = s.resultY := rfl
@[simp] theorem dropWrite_faultAddr (s : State) : (dropWrite s).faultAddr = s.faultAddr := rfl
@[simp] theorem dropWrite_fsm (s : State) : (dropWrite s).fsm = s.fsm := rfl
@[simp] theorem dropWrite_op (s : State) : (dropWrite s).op = s.op := rfl
@[simp] theorem dropWrite_ci (s : State) : (dropWrite s).ci = s.ci := rfl
@[simp] theorem dropWrite_cj (s : State) : (dropWrite s).cj = s.cj := rfl
@[simp] theorem dropWrite_row (s : State) : (dropWrite s).row = s.row := rfl
@[simp] theorem dropWrite_ba (s : State) : (dropWrite s).ba = s.ba := rfl
@[simp] theorem dropWrite_ph (s : State) : (dropWrite s).ph = s.ph := rfl
@[simp] theorem dropWrite_brf (s : State) : (dropWrite s).brf = s.brf := rfl
@[simp] theorem dropWrite_tmp (s : State) : (dropWrite s).tmp = s.tmp := rfl
@[simp] theorem dropWrite_dr (s : State) : (dropWrite s).dr = s.dr := rfl
@[simp] theorem dropWrite_mem (s : State) : (dropWrite s).mem = s.mem := rfl
@[simp] theorem dropWrite_aw (s : State) : (dropWrite s).aw = s.aw := rfl
@[simp] theorem dropWrite_refusals (s : State) : (dropWrite s).refusals = s.refusals := rfl
@[simp] theorem dropWrite_schedule (s : State) : (dropWrite s).schedule = s.schedule := rfl
@[simp] theorem dropWrite_csrData (s : State) : (dropWrite s).csrData = s.csrData := rfl
@[simp] theorem dropWrite_memData (s : State) : (dropWrite s).memData = s.memData := rfl
@[simp] theorem dropWrite_resultHeld (s : State) : (dropWrite s).resultHeld = s.resultHeld := rfl
@[simp] theorem dropWrite_faultHeld (s : State) : (dropWrite s).faultHeld = s.faultHeld := rfl
@[simp] theorem dropWrite_draws (s : State) : (dropWrite s).draws = s.draws := rfl

/-! ### `writeStatus` -/

@[simp] theorem writeStatus_busy (v : Word) (s : State) : (writeStatus v s).busy = s.busy := rfl
@[simp] theorem writeStatus_done (v : Word) (s : State) : (writeStatus v s).done = (s.done && !v.getLsbD 1) := rfl
@[simp] theorem writeStatus_ovr (v : Word) (s : State) : (writeStatus v s).ovr = (s.ovr && !v.getLsbD 2) := rfl
@[simp] theorem writeStatus_errcode (v : Word) (s : State) : (writeStatus v s).errcode = s.errcode := rfl
@[simp] theorem writeStatus_dimN (v : Word) (s : State) : (writeStatus v s).dimN = s.dimN := rfl
@[simp] theorem writeStatus_baseAddr (v : Word) (s : State) : (writeStatus v s).baseAddr = s.baseAddr := rfl
@[simp] theorem writeStatus_strideS (v : Word) (s : State) : (writeStatus v s).strideS = s.strideS := rfl
@[simp] theorem writeStatus_biI (v : Word) (s : State) : (writeStatus v s).biI = s.biI := rfl
@[simp] theorem writeStatus_bjJ (v : Word) (s : State) : (writeStatus v s).bjJ = s.bjJ := rfl
@[simp] theorem writeStatus_operandX (v : Word) (s : State) : (writeStatus v s).operandX = s.operandX := rfl
@[simp] theorem writeStatus_resultY (v : Word) (s : State) : (writeStatus v s).resultY = s.resultY := rfl
@[simp] theorem writeStatus_faultAddr (v : Word) (s : State) : (writeStatus v s).faultAddr = s.faultAddr := rfl
@[simp] theorem writeStatus_fsm (v : Word) (s : State) : (writeStatus v s).fsm = s.fsm := rfl
@[simp] theorem writeStatus_op (v : Word) (s : State) : (writeStatus v s).op = s.op := rfl
@[simp] theorem writeStatus_ci (v : Word) (s : State) : (writeStatus v s).ci = s.ci := rfl
@[simp] theorem writeStatus_cj (v : Word) (s : State) : (writeStatus v s).cj = s.cj := rfl
@[simp] theorem writeStatus_row (v : Word) (s : State) : (writeStatus v s).row = s.row := rfl
@[simp] theorem writeStatus_ba (v : Word) (s : State) : (writeStatus v s).ba = s.ba := rfl
@[simp] theorem writeStatus_ph (v : Word) (s : State) : (writeStatus v s).ph = s.ph := rfl
@[simp] theorem writeStatus_brf (v : Word) (s : State) : (writeStatus v s).brf = s.brf := rfl
@[simp] theorem writeStatus_tmp (v : Word) (s : State) : (writeStatus v s).tmp = s.tmp := rfl
@[simp] theorem writeStatus_dr (v : Word) (s : State) : (writeStatus v s).dr = s.dr := rfl
@[simp] theorem writeStatus_mem (v : Word) (s : State) : (writeStatus v s).mem = s.mem := rfl
@[simp] theorem writeStatus_aw (v : Word) (s : State) : (writeStatus v s).aw = s.aw := rfl
@[simp] theorem writeStatus_refusals (v : Word) (s : State) : (writeStatus v s).refusals = s.refusals := rfl
@[simp] theorem writeStatus_schedule (v : Word) (s : State) : (writeStatus v s).schedule = s.schedule := rfl
@[simp] theorem writeStatus_csrData (v : Word) (s : State) : (writeStatus v s).csrData = s.csrData := rfl
@[simp] theorem writeStatus_memData (v : Word) (s : State) : (writeStatus v s).memData = s.memData := rfl
@[simp] theorem writeStatus_resultHeld (v : Word) (s : State) : (writeStatus v s).resultHeld = s.resultHeld := rfl
@[simp] theorem writeStatus_faultHeld (v : Word) (s : State) : (writeStatus v s).faultHeld = s.faultHeld := rfl
@[simp] theorem writeStatus_draws (v : Word) (s : State) : (writeStatus v s).draws = s.draws := rfl

/-! ### `clearCsrs` -/

@[simp] theorem clearCsrs_busy (s : State) : (clearCsrs s).busy = false := rfl
@[simp] theorem clearCsrs_done (s : State) : (clearCsrs s).done = false := rfl
@[simp] theorem clearCsrs_ovr (s : State) : (clearCsrs s).ovr = false := rfl
@[simp] theorem clearCsrs_errcode (s : State) : (clearCsrs s).errcode = 0 := rfl
@[simp] theorem clearCsrs_dimN (s : State) : (clearCsrs s).dimN = 0 := rfl
@[simp] theorem clearCsrs_baseAddr (s : State) : (clearCsrs s).baseAddr = 0 := rfl
@[simp] theorem clearCsrs_strideS (s : State) : (clearCsrs s).strideS = 0 := rfl
@[simp] theorem clearCsrs_biI (s : State) : (clearCsrs s).biI = 0 := rfl
@[simp] theorem clearCsrs_bjJ (s : State) : (clearCsrs s).bjJ = 0 := rfl
@[simp] theorem clearCsrs_operandX (s : State) : (clearCsrs s).operandX = 0 := rfl
@[simp] theorem clearCsrs_resultY (s : State) : (clearCsrs s).resultY = 0 := rfl
@[simp] theorem clearCsrs_faultAddr (s : State) : (clearCsrs s).faultAddr = 0 := rfl
@[simp] theorem clearCsrs_fsm (s : State) : (clearCsrs s).fsm = .idle := rfl
@[simp] theorem clearCsrs_op (s : State) : (clearCsrs s).op = s.op := rfl
@[simp] theorem clearCsrs_ci (s : State) : (clearCsrs s).ci = s.ci := rfl
@[simp] theorem clearCsrs_cj (s : State) : (clearCsrs s).cj = s.cj := rfl
@[simp] theorem clearCsrs_row (s : State) : (clearCsrs s).row = s.row := rfl
@[simp] theorem clearCsrs_ba (s : State) : (clearCsrs s).ba = s.ba := rfl
@[simp] theorem clearCsrs_ph (s : State) : (clearCsrs s).ph = s.ph := rfl
@[simp] theorem clearCsrs_brf (s : State) : (clearCsrs s).brf = s.brf := rfl
@[simp] theorem clearCsrs_tmp (s : State) : (clearCsrs s).tmp = s.tmp := rfl
@[simp] theorem clearCsrs_dr (s : State) : (clearCsrs s).dr = s.dr := rfl
@[simp] theorem clearCsrs_mem (s : State) : (clearCsrs s).mem = s.mem := rfl
@[simp] theorem clearCsrs_aw (s : State) : (clearCsrs s).aw = s.aw := rfl
@[simp] theorem clearCsrs_refusals (s : State) : (clearCsrs s).refusals = s.refusals := rfl
@[simp] theorem clearCsrs_schedule (s : State) : (clearCsrs s).schedule = s.schedule := rfl
@[simp] theorem clearCsrs_csrData (s : State) : (clearCsrs s).csrData = s.csrData := rfl
@[simp] theorem clearCsrs_memData (s : State) : (clearCsrs s).memData = s.memData := rfl
@[simp] theorem clearCsrs_resultHeld (s : State) : (clearCsrs s).resultHeld = s.resultHeld := rfl
@[simp] theorem clearCsrs_faultHeld (s : State) : (clearCsrs s).faultHeld = s.faultHeld := rfl
@[simp] theorem clearCsrs_draws (s : State) : (clearCsrs s).draws = s.draws := rfl

/-! ### `scramble` -/

@[simp] theorem scramble_busy (s : State) : (scramble s).busy = s.busy := rfl
@[simp] theorem scramble_done (s : State) : (scramble s).done = s.done := rfl
@[simp] theorem scramble_ovr (s : State) : (scramble s).ovr = s.ovr := rfl
@[simp] theorem scramble_errcode (s : State) : (scramble s).errcode = s.errcode := rfl
@[simp] theorem scramble_dimN (s : State) : (scramble s).dimN = s.dimN := rfl
@[simp] theorem scramble_baseAddr (s : State) : (scramble s).baseAddr = s.baseAddr := rfl
@[simp] theorem scramble_strideS (s : State) : (scramble s).strideS = s.strideS := rfl
@[simp] theorem scramble_biI (s : State) : (scramble s).biI = s.biI := rfl
@[simp] theorem scramble_bjJ (s : State) : (scramble s).bjJ = s.bjJ := rfl
@[simp] theorem scramble_operandX (s : State) : (scramble s).operandX = s.operandX := rfl
@[simp] theorem scramble_resultY (s : State) : (scramble s).resultY = s.resultY := rfl
@[simp] theorem scramble_faultAddr (s : State) : (scramble s).faultAddr = s.faultAddr := rfl
@[simp] theorem scramble_fsm (s : State) : (scramble s).fsm = s.fsm := rfl
@[simp] theorem scramble_op (s : State) : (scramble s).op = s.op := rfl
@[simp] theorem scramble_ci (s : State) : (scramble s).ci = s.ci := rfl
@[simp] theorem scramble_cj (s : State) : (scramble s).cj = s.cj := rfl
@[simp] theorem scramble_row (s : State) : (scramble s).row = s.row := rfl
@[simp] theorem scramble_ba (s : State) : (scramble s).ba = s.ba := rfl
@[simp] theorem scramble_ph (s : State) : (scramble s).ph = s.ph := rfl
@[simp] theorem scramble_brf (s : State) : (scramble s).brf = s.brf := rfl
@[simp] theorem scramble_tmp (s : State) : (scramble s).tmp = s.tmp := rfl
@[simp] theorem scramble_dr (s : State) : (scramble s).dr = s.dr := rfl
@[simp] theorem scramble_mem (s : State) : (scramble s).mem = s.mem.writeCells (s.guarded.map fun a => (a, Config.freeByte s.draws a)) := rfl
@[simp] theorem scramble_aw (s : State) : (scramble s).aw = s.aw := rfl
@[simp] theorem scramble_refusals (s : State) : (scramble s).refusals = s.refusals := rfl
@[simp] theorem scramble_schedule (s : State) : (scramble s).schedule = s.schedule := rfl
@[simp] theorem scramble_csrData (s : State) : (scramble s).csrData = s.csrData := rfl
@[simp] theorem scramble_memData (s : State) : (scramble s).memData = s.memData := rfl
@[simp] theorem scramble_resultHeld (s : State) : (scramble s).resultHeld = s.resultHeld := rfl
@[simp] theorem scramble_faultHeld (s : State) : (scramble s).faultHeld = s.faultHeld := rfl
@[simp] theorem scramble_draws (s : State) : (scramble s).draws = s.draws := rfl

end Sys2Proof.Machine
end

