-- ==== Sys2Proof/Laws/Memory.lean ====
section
/-! SUPPORT. Memory as a list: what a read returns after a write, and that every operation keeps the canonical form. -/

namespace Sys2Proof.Machine

theorem Memory.readByte_of_not_listed {m : Memory} {a : Nat} (h : ∀ c ∈ m, c.1 ≠ a) :
    m.readByte a = unlistedByte := by
  induction m with
  | nil => rfl
  | cons c rest ih =>
    obtain ⟨k, b⟩ := c
    have hk : k ≠ a := h (k, b) (List.mem_cons_self ..)
    simp only [Memory.readByte, if_neg hk]
    exact ih fun c hc => h c (List.mem_cons_of_mem _ hc)

theorem Memory.readByte_of_listed {m : Memory} (hwf : m.wf) {c : Host.Cell} (hc : c ∈ m) : m.readByte c.1 = c.2 := by
  induction m with
  | nil => cases hc
  | cons d rest ih =>
    obtain ⟨k, b⟩ := d
    obtain ⟨hlt, hrest⟩ := List.pairwise_cons.mp hwf.1
    rcases List.mem_cons.mp hc with rfl | hc'
    · simp [Memory.readByte]
    · have : k ≠ c.1 := Nat.ne_of_lt (hlt c hc')
      simp only [Memory.readByte, if_neg this]
      exact ih ⟨hrest, fun d hd => hwf.2 d (List.mem_cons_of_mem _ hd)⟩ hc'

theorem Memory.mem_eraseCell {m : Memory} {a : Nat} {c : Host.Cell} : c ∈ m.eraseCell a ↔ c ∈ m ∧ c.1 ≠ a := by
  simp [Memory.eraseCell]

theorem Memory.readByte_eraseCell (m : Memory) (a x : Nat) :
    (m.eraseCell a).readByte x = if x = a then unlistedByte else m.readByte x := by
  by_cases hx : x = a
  · subst hx
    rw [if_pos rfl]
    exact Memory.readByte_of_not_listed fun c hc => (Memory.mem_eraseCell.mp hc).2
  · rw [if_neg hx]
    induction m with
    | nil => rfl
    | cons c rest ih =>
      obtain ⟨k, b⟩ := c
      by_cases hk : k = a
      · have : (Memory.eraseCell ((k, b) :: rest) a) = Memory.eraseCell rest a := by simp [Memory.eraseCell, hk]
        rw [this, ih]
        simp [Memory.readByte, hk, Ne.symm hx]
      · have : (Memory.eraseCell ((k, b) :: rest) a) = (k, b) :: Memory.eraseCell rest a := by
          simp [Memory.eraseCell, hk]
        rw [this]
        simp only [Memory.readByte, ih]

theorem Memory.mem_insertCell {m : Memory} {a : Nat} {b : Byte} {c : Host.Cell} :
    c ∈ m.insertCell a b ↔ c = (a, b) ∨ c ∈ m := by
  induction m with
  | nil => simp [Memory.insertCell]
  | cons d rest ih =>
    obtain ⟨k, e⟩ := d
    simp only [Memory.insertCell]
    split
    · simp
    · simp [ih, or_left_comm]

theorem Memory.readByte_insertCell {m : Memory} {a : Nat} {b : Byte} (h : ∀ c ∈ m, c.1 ≠ a) (x : Nat) :
    (m.insertCell a b).readByte x = if x = a then b else m.readByte x := by
  induction m with
  | nil => simp [Memory.insertCell, Memory.readByte, eq_comm]
  | cons d rest ih =>
    obtain ⟨k, e⟩ := d
    have hk : k ≠ a := h (k, e) (List.mem_cons_self ..)
    have ih' := ih fun c hc => h c (List.mem_cons_of_mem _ hc)
    simp only [Memory.insertCell]
    split
    · simp [Memory.readByte, eq_comm]
    · simp only [Memory.readByte, ih']
      by_cases hx : x = a
      · subst hx; simp [hk]
      · simp [hx]

/-- A read after a write of one byte. -/
theorem Memory.readByte_writeByte (m : Memory) (a : Nat) (b : Byte) (x : Nat) :
    (m.writeByte a b).readByte x = if x = a then b else m.readByte x := by
  unfold Memory.writeByte
  split
  · rename_i h; rw [Memory.readByte_eraseCell, h]
  · rw [Memory.readByte_insertCell fun c hc => (Memory.mem_eraseCell.mp hc).2, Memory.readByte_eraseCell]
    split <;> rfl

theorem Memory.readByte_writeCells_of_not_mem {cells : List Host.Cell} (m : Memory) {x : Nat}
    (h : ∀ c ∈ cells, c.1 ≠ x) : (m.writeCells cells).readByte x = m.readByte x := by
  induction cells generalizing m with
  | nil => rfl
  | cons c rest ih =>
    have := ih (m.writeByte c.1 c.2) fun d hd => h d (List.mem_cons_of_mem _ hd)
    simp only [Memory.writeCells, List.foldl_cons] at this ⊢
    rw [this, Memory.readByte_writeByte, if_neg (Ne.symm (h c (List.mem_cons_self ..)))]

theorem Memory.readByte_writeCells_of_mem {cells : List Host.Cell} (m : Memory)
    (hnodup : (cells.map Prod.fst).Nodup) {c : Host.Cell} (hc : c ∈ cells) :
    (m.writeCells cells).readByte c.1 = c.2 := by
  induction cells generalizing m with
  | nil => cases hc
  | cons d rest ih =>
    obtain ⟨hd, hrest⟩ := List.nodup_cons.mp hnodup
    rcases List.mem_cons.mp hc with rfl | hc'
    · have : ∀ e ∈ rest, e.1 ≠ c.1 := fun e he heq => hd (heq ▸ List.mem_map_of_mem he)
      have := Memory.readByte_writeCells_of_not_mem (m.writeByte c.1 c.2) this
      simp only [Memory.writeCells, List.foldl_cons] at this ⊢
      rw [this, Memory.readByte_writeByte, if_pos rfl]
    · exact ih (m.writeByte d.1 d.2) hrest hc'

/-! ### The canonical form -/

theorem Memory.wf_nil : Memory.wf [] := ⟨List.Pairwise.nil, fun _ h => nomatch h⟩

theorem Memory.wf_eraseCell {m : Memory} (h : m.wf) (a : Nat) : (m.eraseCell a).wf :=
  ⟨h.1.filter _, fun c hc => h.2 c (Memory.mem_eraseCell.mp hc).1⟩

theorem Memory.wf_insertCell {m : Memory} (h : m.wf) {a : Nat} {b : Byte} (hb : b ≠ unlistedByte)
    (ha : ∀ c ∈ m, c.1 ≠ a) : (m.insertCell a b).wf := by
  refine ⟨?_, fun c hc => ?_⟩
  · have hp := h.1
    clear h
    induction m with
    | nil => simp [Memory.insertCell]
    | cons d rest ih =>
      obtain ⟨k, e⟩ := d
      obtain ⟨hlt, hrest⟩ := List.pairwise_cons.mp hp
      have hk : k ≠ a := ha (k, e) (List.mem_cons_self ..)
      simp only [Memory.insertCell]
      split
      · rename_i hak
        refine List.pairwise_cons.mpr ⟨fun c hc => ?_, hp⟩
        rcases List.mem_cons.mp hc with rfl | hc'
        · exact hak
        · exact lt_trans hak (hlt c hc')
      · rename_i hak
        refine List.pairwise_cons.mpr ⟨fun c hc => ?_, ih (fun c hc => ha c (List.mem_cons_of_mem _ hc)) hrest⟩
        rcases Memory.mem_insertCell.mp hc with rfl | hc'
        · show k < a
          omega
        · exact hlt c hc'
  · rcases Memory.mem_insertCell.mp hc with rfl | hc'
    · exact hb
    · exact h.2 c hc'

theorem Memory.wf_writeByte {m : Memory} (h : m.wf) (a : Nat) (b : Byte) : (m.writeByte a b).wf := by
  unfold Memory.writeByte
  split
  · exact Memory.wf_eraseCell h a
  · rename_i hb
    exact Memory.wf_insertCell (Memory.wf_eraseCell h a) hb fun c hc => (Memory.mem_eraseCell.mp hc).2

/-- Every memory operation keeps the canonical form: all of them are `writeCells`. -/
theorem Memory.wf_writeCells {m : Memory} (h : m.wf) (cells : List Host.Cell) : (m.writeCells cells).wf := by
  induction cells generalizing m with
  | nil => exact h
  | cons c rest ih => exact ih (Memory.wf_writeByte h c.1 c.2)

theorem reset_memory_wf : State.reset.mem.wf := Memory.wf_nil

theorem memWrite_memory_wf {s : State} (h : s.mem.wf) (a : Nat) (v : Word) : (s.memWrite a v).mem.wf :=
  Memory.wf_writeCells h _

theorem scramble_memory_wf {s : State} (h : s.mem.wf) : (scramble s).mem.wf := Memory.wf_writeCells h _

theorem Memory.mem_writeCells {m : Memory} {cells : List Host.Cell} {c : Host.Cell} (h : c ∈ m.writeCells cells) :
    c ∈ m ∨ c ∈ cells := by
  induction cells generalizing m with
  | nil => exact .inl h
  | cons d rest ih =>
    rcases ih (m := m.writeByte d.1 d.2) h with h' | h'
    · unfold Memory.writeByte at h'
      split at h'
      · exact .inl (Memory.mem_eraseCell.mp h').1
      · rcases Memory.mem_insertCell.mp h' with rfl | h''
        · exact .inr (List.mem_cons_self ..)
        · exact .inl (Memory.mem_eraseCell.mp h'').1
    · exact .inr (List.mem_cons_of_mem _ h')

/-- In canonical form, memories that read the same everywhere are the same data. -/
theorem Memory.ext_of_wf {m m' : Memory} (h : m.wf) (h' : m'.wf) (hread : ∀ a, m.readByte a = m'.readByte a) :
    m = m' := by
  have key : ∀ {p q : Memory}, p.wf → q.wf → (∀ a, p.readByte a = q.readByte a) → ∀ c ∈ p, c ∈ q := by
    intro p q hp hq hr c hc
    by_contra hn
    have hval := Memory.readByte_of_listed hp hc
    by_cases hex : ∃ d ∈ q, d.1 = c.1
    · obtain ⟨d, hd, hdc⟩ := hex
      have hd2 := Memory.readByte_of_listed hq hd
      have : d.2 = c.2 := by rw [← hd2, hdc, ← hr, hval]
      exact hn (by rwa [show c = d from Prod.ext hdc.symm this.symm])
    · have := Memory.readByte_of_not_listed (m := q) (a := c.1) fun d hd hdc => hex ⟨d, hd, hdc⟩
      exact hp.2 c hc (by rw [← hval, hr, this])
  have nodup : ∀ {p : Memory}, p.wf → p.Nodup := fun hp => hp.1.imp fun hlt heq => by simp [heq] at hlt
  have hperm : m.Perm m' :=
    (List.perm_ext_iff_of_nodup (nodup h) (nodup h')).mpr fun c =>
      ⟨key h h' hread c, key h' h (fun a => (hread a).symm) c⟩
  exact hperm.eq_of_pairwise (fun a b _ _ hab hba => absurd hab (Nat.lt_asymm hba)) h.1 h'.1

end Sys2Proof.Machine
end

