-- ==== Sys2Proof/Laws/Ops.lean ====
section
/-! SUPPORT. What the shared operations can do: addresses, words of memory, one checked access, the operand checks. -/

namespace Sys2Proof.Machine

/-! ### Addresses -/

theorem State.trunc_lt (s : State) (n : Nat) : s.trunc n < 2 ^ s.aw := Nat.mod_lt _ (Nat.two_pow_pos _)

@[simp] theorem State.trunc_trunc_add (s : State) (n g : Nat) : s.trunc (s.trunc n + g) = s.trunc (n + g) :=
  Nat.mod_add_mod ..

@[simp] theorem State.trunc_add_trunc (s : State) (n g : Nat) : s.trunc (n + s.trunc g) = s.trunc (n + g) :=
  Nat.add_mod_mod ..

theorem State.trunc_of_lt {s : State} {n : Nat} (h : n < 2 ^ s.aw) : s.trunc n = n := Nat.mod_eq_of_lt h

theorem State.toNat_truncWord {s : State} (h : s.aw ≤ 64) (n : Nat) : (s.truncWord n).toNat = s.trunc n := by
  have : s.trunc n < 2 ^ 64 := lt_of_lt_of_le (s.trunc_lt n) (Nat.pow_le_pow_right (by decide) h)
  simpa [State.truncWord] using this

theorem State.toNat_truncWord_lt (s : State) (n : Nat) : (s.truncWord n).toNat < 2 ^ s.aw :=
  lt_of_le_of_lt (by simpa [State.truncWord] using Nat.mod_le _ _) (s.trunc_lt n)

theorem State.trunc_congr {s t : State} (h : t.aw = s.aw) (n : Nat) : t.trunc n = s.trunc n := by
  simp [State.trunc, h]

/-- The eight addresses of an access are distinct. -/
theorem State.trunc_add_inj {s : State} (haw : 3 ≤ s.aw) {a g h : Nat} (hg : g < 8) (hh : h < 8)
    (heq : s.trunc (a + g) = s.trunc (a + h)) : g = h := by
  have h8 : 8 ≤ 2 ^ s.aw := Nat.pow_le_pow_right (n := 2) (by decide) haw
  have := Nat.ModEq.add_left_cancel' a (show a + g ≡ a + h [MOD 2 ^ s.aw] from heq)
  rwa [Nat.ModEq, Nat.mod_eq_of_lt (lt_of_lt_of_le hg h8), Nat.mod_eq_of_lt (lt_of_lt_of_le hh h8)] at this

/-- A row address and the bytes after it, truncated once. -/
theorem State.trunc_rowAddr_add (s : State) (blockAt r g : Nat) :
    s.trunc (s.rowAddr blockAt r + g) = s.trunc (blockAt + r * s.strideS.toNat + g) := by
  simp [State.rowAddr]

theorem State.blockAddr_eq (s : State) (i j : Nat) :
    s.blockAddr i j = s.trunc (s.baseAddr.toNat + (i * 64 * s.strideS.toNat + j * 8)) := by
  simp [State.blockAddr, State.blockOffset, blockOffsetAt, State.trunc, Config.blockSize, Config.rowBytes]

theorem State.blockAddr_lt (s : State) (i j : Nat) : s.blockAddr i j < 2 ^ s.aw := s.trunc_lt _

/-! ### Words -/

theorem getLsbD_byteOf (w : Word) (g p : Nat) : (byteOf w g).getLsbD p = (decide (p < 8) && w.getLsbD (8 * g + p)) := by
  simp [byteOf, BitVec.getLsbD_extractLsb']

theorem byteOf_inj {v w : Word} (h : ∀ g < 8, byteOf v g = byteOf w g) : v = w := by
  refine BitVec.eq_of_getLsbD_eq fun b hb => ?_
  have := congrArg (fun x => x.getLsbD (b % 8)) (h (b / 8) (by omega))
  simp only [getLsbD_byteOf, Nat.mod_lt b (show 8 > 0 by decide), decide_true, Bool.true_and] at this
  rwa [Nat.div_add_mod] at this

/-- The bits of eight bytes put together, the first byte lowest. -/
theorem getLsbD_append_bytes (f : Nat → Byte) {g p : Nat} (hg : g < 8) (hp : p < 8) :
    (f 7 ++ f 6 ++ f 5 ++ f 4 ++ f 3 ++ f 2 ++ f 1 ++ f 0).getLsbD (8 * g + p) = (f g).getLsbD p := by
  interval_cases g <;>
    (repeat (rw [BitVec.getLsbD_append]; first | rw [if_pos (by omega)] | rw [if_neg (by omega)])) <;>
    (congr 1; omega)

/-- Bit b of the word a `MemRead` returns is bit `b % 8` of the byte at `trunc_AW(a + b/8)`. -/
theorem State.getLsbD_memRead (s : State) (a b : Nat) :
    (s.memRead a).getLsbD b = (decide (b < 64) && (s.readByte (s.trunc (a + b / 8))).getLsbD (b % 8)) := by
  by_cases hb : b < 64
  · have := getLsbD_append_bytes (fun g => s.readByte (s.trunc (a + g))) (g := b / 8) (p := b % 8) (by omega) (by omega)
    rw [Nat.div_add_mod] at this
    rw [decide_eq_true hb, Bool.true_and]
    exact this
  · simp [hb, BitVec.getLsbD_of_ge _ _ (Nat.le_of_not_lt hb)]

/-- A byte that a `MemWrite` stores. -/
theorem State.readByte_memWrite_inside {s : State} (haw : 3 ≤ s.aw) (a : Nat) (v : Word) {g : Nat} (hg : g < 8) :
    (s.memWrite a v).readByte (s.trunc (a + g)) = byteOf v g := by
  have hnodup : (((List.range 8).map fun g => (s.trunc (a + g), byteOf v g)).map Prod.fst).Nodup := by
    rw [List.map_map]
    refine List.Nodup.map_on (fun x hx y hy h => ?_) List.nodup_range
    exact State.trunc_add_inj haw (List.mem_range.mp hx) (List.mem_range.mp hy) h
  exact Memory.readByte_writeCells_of_mem s.mem hnodup
    (List.mem_map.mpr ⟨g, List.mem_range.mpr hg, rfl⟩ : (s.trunc (a + g), byteOf v g) ∈ _)

/-- A byte that a `MemWrite` does not store. -/
theorem State.readByte_memWrite_outside {s : State} {a b : Nat} (v : Word) (h : ∀ g < 8, b ≠ s.trunc (a + g)) :
    (s.memWrite a v).readByte b = s.readByte b := by
  refine Memory.readByte_writeCells_of_not_mem s.mem fun c hc => ?_
  obtain ⟨g, hg, rfl⟩ := List.mem_map.mp hc
  exact Ne.symm (h g (List.mem_range.mp hg))

/-- A word read from memory depends only on the bytes it reads. -/
theorem State.memRead_congr {s t : State} {a : Nat} (haw : t.aw = s.aw)
    (h : ∀ g < 8, t.readByte (s.trunc (a + g)) = s.readByte (s.trunc (a + g))) : t.memRead a = s.memRead a := by
  refine BitVec.eq_of_getLsbD_eq fun b hb => ?_
  rw [State.getLsbD_memRead, State.getLsbD_memRead, State.trunc_congr haw, h (b / 8) (by omega)]

/-! ### Checked accesses -/

theorem readAccess_cases (a : Nat) (k : Word → State) (s : State) :
    (s.memOk .read a = true ∧ readAccess a k s = k (s.memRead a)) ∨
      (s.memOk .read a = false ∧ readAccess a k s = busError a s) := by
  unfold readAccess
  cases s.memOk .read a <;> simp

theorem writeAccess_cases (a : Nat) (v : Word) (k : State → State) (s : State) :
    (s.memOk .write a = true ∧ writeAccess a v k s = k (s.memWrite a v)) ∨
      (s.memOk .write a = false ∧ writeAccess a v k s = busError a s) := by
  unfold writeAccess
  cases s.memOk .write a <;> simp

/-! ### Operand checks -/

theorem State.matrixCheck_cases (s : State) :
    (s.matrixCheck = .invalidDimension ∧ (s.dimN.toNat = 0 ∨ s.dimN.toNat % 64 ≠ 0)) ∨
    (s.matrixCheck = .invalidStride ∧ (s.dimN.toNat ≠ 0 ∧ s.dimN.toNat % 64 = 0) ∧
      s.strideS.toNat < s.dimN.toNat / 8) ∨
    (s.matrixCheck = .none ∧ (s.dimN.toNat ≠ 0 ∧ s.dimN.toNat % 64 = 0) ∧ s.dimN.toNat / 8 ≤ s.strideS.toNat) := by
  unfold State.matrixCheck State.dimensionValid State.strideValid
  by_cases h0 : s.dimN.toNat = 0
  · simp [h0]
  · by_cases h64 : s.dimN.toNat % 64 = 0
    · by_cases hs : s.dimN.toNat / 8 ≤ s.strideS.toNat
      · simp [h0, h64, hs]
      · simp [h0, h64, hs, Nat.lt_of_not_le hs]
    · simp [h0, h64]

theorem State.cycleCheck_cases (s : State) :
    (s.cycleCheck = s.matrixCheck ∧ s.matrixCheck ≠ .none) ∨
    (s.cycleCheck = .coordRange ∧ s.matrixCheck = .none ∧
      (s.numBlocks ≤ s.biI.toNat ∨ s.numBlocks ≤ s.bjJ.toNat)) ∨
    (s.cycleCheck = .none ∧ s.matrixCheck = .none ∧ s.biI.toNat < s.numBlocks ∧ s.bjJ.toNat < s.numBlocks) := by
  unfold State.cycleCheck State.coordsValid
  cases h : s.matrixCheck <;> simp
  by_cases hi : s.biI.toNat < s.numBlocks <;> by_cases hj : s.bjJ.toNat < s.numBlocks <;> simp [hi, hj] <;> omega

end Sys2Proof.Machine
end

