-- ==== Sys2Proof/Laws/Exec.lean ====
section
/-! SUPPORT. What `exec` answers in each FSM state that a command enters, and what a step of the core can be. -/

namespace Sys2Proof.Machine

variable {s t : State}

theorem exec_nop_check (h : s.fsm = .check) : exec .nop s =
    .next (raise .none s) := by
  simp [exec, execNop, h]

theorem exec_frev_check (h : s.fsm = .check) : exec .frev s =
    .next (raise .none { s with resultY := fullBitReverse s.operandX }) := by
  simp [exec, execFrev, h]

theorem exec_brev_check (h : s.fsm = .check) : exec .brev s =
    .next (raise .none { s with resultY := byteLocalBitReverse s.operandX }) := by
  simp [exec, execBrev, h]

theorem exec_baddr_check (h : s.fsm = .check) : exec .baddr s =
    .next (raise .none { s with resultY := BitVec.ofNat 64 (s.blockOffset s.biI.toNat s.bjJ.toNat) }) := by
  simp [exec, execBaddr, h]

theorem exec_tpose_check (h : s.fsm = .check) : exec .tpose s =
    .next (startBlock s) := by
  simp [exec, execTpose, h]

theorem exec_tpose_load (h : s.fsm = .load) : exec .tpose s =
    .next (loadStep (fun w => w) s) := by
  simp [exec, execTpose, h]

theorem exec_tpose_xform (h : s.fsm = .xform) : exec .tpose s =
    .next (xformStep s) := by
  simp [exec, execTpose, h]

theorem exec_tpose_store (h : s.fsm = .store) : exec .tpose s =
    .next (storeStep (fun w => w) (raise .none) s) := by
  simp [exec, execTpose, h]

theorem exec_rotblk_check (h : s.fsm = .check) : exec .rotblk s =
    .next (startBlock s) := by
  simp [exec, execRotblk, h]

theorem exec_rotblk_load (h : s.fsm = .load) : exec .rotblk s =
    .next (loadStep preReverse s) := by
  simp [exec, execRotblk, h]

theorem exec_rotblk_xform (h : s.fsm = .xform) : exec .rotblk s =
    .next (xformStep s) := by
  simp [exec, execRotblk, h]

theorem exec_rotblk_store (h : s.fsm = .store) : exec .rotblk s =
    .next (storeStep postReverse (raise .none) s) := by
  simp [exec, execRotblk, h]

theorem exec_cycle4_check (h : s.fsm = .check) : exec .cycle4 s =
    .next (startCycle s) := by
  simp [exec, execCycle4, h]

theorem exec_cycle4_cyc {k : Fin 8} (h : s.fsm = .cyc k) : exec .cycle4 s = .next (cycStep (raise .none) k s) := by
  simp [exec, execCycle4, h]

theorem exec_rotmat_check (h : s.fsm = .check) : exec .rotmat s =
    .next (startMatrix s) := by
  simp [exec, execRotmat, h]

theorem exec_rotmat_cyc {k : Fin 8} (h : s.fsm = .cyc k) : exec .rotmat s = .next (cycStep nextCycle k s) := by
  simp [exec, execRotmat, h]

theorem exec_rotmat_load (h : s.fsm = .load) : exec .rotmat s =
    .next (loadStep preReverse s) := by
  simp [exec, execRotmat, h]

theorem exec_rotmat_xform (h : s.fsm = .xform) : exec .rotmat s =
    .next (xformStep s) := by
  simp [exec, execRotmat, h]

theorem exec_rotmat_store (h : s.fsm = .store) : exec .rotmat s =
    .next (storeStep postReverse nextBlock s) := by
  simp [exec, execRotmat, h]

/-- The COMPLETE step is the same for every command (R97). -/
theorem exec_complete {code : ErrCode} (h : s.fsm = .complete code) (i : Instr) : exec i s = .next (complete code s) := by
  cases i <;>
    simp [exec, execNop, execFrev, execBrev, execBaddr, execTpose, execRotblk, execCycle4, execRotmat, h]

theorem coreStep_idle (h : s.fsm = .idle) : coreStep s = .next s := by simp [coreStep, h]

theorem coreStep_of_decode (h : s.fsm ≠ .idle) {i : Instr} (hi : decode s.op = .ok i) : coreStep s = exec i s := by
  unfold coreStep
  cases hf : s.fsm <;> simp_all

theorem coreStep_of_illegal (h : s.fsm ≠ .idle) {e : DecodeError} (he : decode s.op = .error e) :
    coreStep s = illegalStep s := by
  unfold coreStep
  cases hf : s.fsm <;> simp_all

theorem coreStep_complete {code : ErrCode} (h : s.fsm = .complete code) : coreStep s = .next (complete code s) := by
  have hne : s.fsm ≠ .idle := by simp [h]
  cases hd : decode s.op with
  | ok i => rw [coreStep_of_decode hne hd, exec_complete h]
  | error e => rw [coreStep_of_illegal hne hd]; simp [illegalStep, h]

/-- The check steps (R96): an error or the end of the command is raised, a result written first for `FREV`, `BREV` and
`BADDR`, or the first LOAD or CYC state is entered. -/
inductive CheckStep (s : State) : State → Prop where
  | illegal (e : DecodeError) (hd : decode s.op = .error e) : CheckStep s (raise .illegalCommand s)
  | nop (hd : decode s.op = .ok .nop) : CheckStep s (raise .none s)
  | result (y : Word) (hd : decode s.op = .ok .frev ∨ decode s.op = .ok .brev ∨ decode s.op = .ok .baddr) :
      CheckStep s (raise .none { s with resultY := y })
  | block (hd : decode s.op = .ok .tpose ∨ decode s.op = .ok .rotblk) : CheckStep s (startBlock s)
  | cycle (hd : decode s.op = .ok .cycle4) : CheckStep s (startCycle s)
  | matrix (hd : decode s.op = .ok .rotmat) : CheckStep s (startMatrix s)

/-- Every step of the core that answers a next state (R95 to R98). -/
inductive CoreStep (s : State) : State → Prop where
  | idle (h : s.fsm = .idle) : CoreStep s s
  | check {t : State} (h : s.fsm = .check) (c : CheckStep s t) : CoreStep s t
  | load (h : s.fsm = .load) (pass : Word → Word) : CoreStep s (loadStep pass s)
  | xform (h : s.fsm = .xform) : CoreStep s (xformStep s)
  | storeBlock (h : s.fsm = .store) (pass : Word → Word)
      (hd : decode s.op = .ok .tpose ∨ decode s.op = .ok .rotblk) : CoreStep s (storeStep pass (raise .none) s)
  | storeMatrix (h : s.fsm = .store) (pass : Word → Word) (hd : decode s.op = .ok .rotmat) :
      CoreStep s (storeStep pass nextBlock s)
  | cycle {k : Fin 8} (h : s.fsm = .cyc k) (hd : decode s.op = .ok .cycle4) : CoreStep s (cycStep (raise .none) k s)
  | matrix {k : Fin 8} (h : s.fsm = .cyc k) (hd : decode s.op = .ok .rotmat) : CoreStep s (cycStep nextCycle k s)
  | complete {code : ErrCode} (h : s.fsm = .complete code) : CoreStep s (complete code s)

/-- A step of the core that answers a next state is one of `CoreStep`. -/
theorem coreStep_cases (h : coreStep s = .next t) : CoreStep s t := by
  by_cases hidle : s.fsm = .idle
  · rw [coreStep_idle hidle] at h
    obtain rfl : s = t := by simpa using h
    exact .idle hidle
  cases hd : decode s.op with
  | error e =>
    rw [coreStep_of_illegal hidle hd] at h
    unfold illegalStep at h
    split at h <;> cases h
    · rename_i hf; exact .check hf (.illegal e hd)
    · rename_i hf; exact .complete hf
  | ok i =>
    rw [coreStep_of_decode hidle hd] at h
    cases i <;>
      simp only [exec, execNop, execFrev, execBrev, execBaddr, execTpose, execRotblk, execCycle4, execRotmat] at h <;>
      split at h <;> cases h <;> rename_i hf <;>
      first
        | exact .complete hf
        | exact .check hf (.nop hd)
        | exact .check hf (.result _ (.inl hd))
        | exact .check hf (.result _ (.inr (.inl hd)))
        | exact .check hf (.result _ (.inr (.inr hd)))
        | exact .check hf (.block (.inl hd))
        | exact .check hf (.block (.inr hd))
        | exact .check hf (.cycle hd)
        | exact .check hf (.matrix hd)
        | exact .load hf _
        | exact .xform hf
        | exact .storeBlock hf _ (.inl hd)
        | exact .storeBlock hf _ (.inr hd)
        | exact .storeMatrix hf _ hd
        | exact .cycle hf hd
        | exact .matrix hf hd

/-! ### The memory steps, case by case -/

theorem loadStep_cases (pass : Word → Word) (s : State) :
    (s.memOk .read s.currentRowAddr = true ∧ loadStep pass s =
      { s with
        brf := s.brf.setIfInBounds s.row.toNat (pass (s.memRead s.currentRowAddr))
        fsm := if s.lastRow then .xform else .load
        row := if s.lastRow then s.row else s.row + 1 }) ∨
    (s.memOk .read s.currentRowAddr = false ∧ loadStep pass s = busError s.currentRowAddr s) := by
  unfold loadStep readAccess
  cases s.memOk .read s.currentRowAddr
  · exact .inr ⟨rfl, rfl⟩
  · refine .inl ⟨rfl, ?_⟩
    cases s.lastRow <;> rfl

theorem storeStep_cases (pass : Word → Word) (after : State → State) (s : State) :
    (s.memOk .write s.currentRowAddr = true ∧ storeStep pass after s =
      (if s.lastRow then after (s.memWrite s.currentRowAddr (pass (s.brf[s.row.toNat]?.getD 0)))
      else enter .store (s.row + 1) (s.memWrite s.currentRowAddr (pass (s.brf[s.row.toNat]?.getD 0))))) ∨
    (s.memOk .write s.currentRowAddr = false ∧ storeStep pass after s = busError s.currentRowAddr s) :=
  writeAccess_cases ..

/-- Where `afterAccess` leads from: the row, the current cell and the operands are those of `s`. -/
theorem cycStep_cases (after : State → State) (k : Fin 8) (s : State) :
    ((cycleAccess k).kind = .read ∧ s.memOk .read (s.cycAddr k) = true ∧ cycStep after k s =
      afterAccess after k ((cycleAccess k).reg.write s (s.memRead (s.cycAddr k)))) ∨
    ((cycleAccess k).kind = .write ∧ s.memOk .write (s.cycAddr k) = true ∧ cycStep after k s =
      afterAccess after k (s.memWrite (s.cycAddr k) ((cycleAccess k).reg.value s))) ∨
    (s.memOk (cycleAccess k).kind (s.cycAddr k) = false ∧ cycStep after k s = busError (s.cycAddr k) s) := by
  cases hk : (cycleAccess k).kind with
  | read =>
    have heq : cycStep after k s =
        readAccess (s.cycAddr k) (fun w => afterAccess after k ((cycleAccess k).reg.write s w)) s := by
      simp only [cycStep, hk]
    rcases readAccess_cases (s.cycAddr k) (fun w => afterAccess after k ((cycleAccess k).reg.write s w)) s with
      ⟨hok, h⟩ | ⟨hok, h⟩
    · exact .inl ⟨rfl, hok, heq.trans h⟩
    · exact .inr (.inr ⟨hok, heq.trans h⟩)
  | write =>
    have heq : cycStep after k s =
        writeAccess (s.cycAddr k) ((cycleAccess k).reg.value s) (afterAccess after k) s := by
      simp only [cycStep, hk]
    rcases writeAccess_cases (s.cycAddr k) ((cycleAccess k).reg.value s) (afterAccess after k) s with
      ⟨hok, h⟩ | ⟨hok, h⟩
    · exact .inr (.inl ⟨rfl, hok, heq.trans h⟩)
    · exact .inr (.inr ⟨hok, heq.trans h⟩)

theorem afterAccess_cases (after : State → State) (k : Fin 8) (s : State) :
    (k.val < 7 ∧ afterAccess after k s = { s with fsm := .cyc (k + 1) }) ∨
    (k = 7 ∧ s.lastRow = false ∧ afterAccess after k s = enter (.cyc 0) (s.row + 1) s) ∨
    (k = 7 ∧ s.lastRow = true ∧ afterAccess after k s = after s) := by
  unfold afterAccess
  by_cases hk : k.val < 7
  · exact .inl ⟨hk, if_pos hk⟩
  · have h7 : k = 7 := by omega
    rw [if_neg hk]
    cases s.lastRow
    · exact .inr (.inl ⟨h7, rfl, rfl⟩)
    · exact .inr (.inr ⟨h7, rfl, rfl⟩)

/-- The next cell of a grid of `columns` columns, from a cell inside it (R98). -/
theorem State.nextCell_cases {s : State} {columns : Nat} (h : s.cj.toNat < columns) (hc : columns < 2 ^ 32) :
    (s.cj.toNat + 1 < columns ∧ s.nextCell columns = (s.ci, s.cj + 1)) ∨
    (s.cj.toNat + 1 = columns ∧ s.nextCell columns = (s.ci + 1, 0)) := by
  have hlt := s.cj.isLt
  unfold State.nextCell
  have htoNat : (s.cj + 1).toNat = (s.cj.toNat + 1) % 2 ^ 32 := by simp [BitVec.toNat_add]
  rw [htoNat]
  rw [Nat.mod_eq_of_lt (by omega)]
  by_cases heq : s.cj.toNat + 1 = columns
  · rw [if_pos heq]; exact .inr ⟨heq, rfl⟩
  · rw [if_neg heq]; exact .inl ⟨by omega, rfl⟩

theorem State.numBlocks_lt (s : State) : s.numBlocks < 2 ^ 26 := by
  have := s.dimN.isLt
  unfold State.numBlocks Config.blockSize
  omega

/-! ### The model's step -/

theorem step_of_schedule_nil (h : s.schedule = []) : step s = coreStep s := by simp [step, advance, h]

theorem step_of_schedule_cons {e : Event} {rest : List Event} (h : s.schedule = e :: rest) :
    step s = perform e { s with schedule := rest } := by simp [step, advance, h]

end Sys2Proof.Machine
end

