-- ==== Sys2Proof/Laws/Network.lean ====
section
/-! SUPPORT. What one stage of the two networks does to the bits: a stage of the bit reversal flips one bit of every bit
index (R60), a width of the butterfly transpose flips one bit of the row index and of the bit index where they agree
(R68). -/

namespace Sys2Proof.Machine

/-- The mask of group width `j`: ones at the bit indices whose bit `j` is 0 (R60, R67). -/
abbrev IsMask (j : Nat) (m : Word) : Prop :=
  ∀ b : Fin 64,
    (b.val &&& j = 0 → m.getLsbD b = true ∧ j + b.val = b.val ^^^ j ∧ b.val ||| j = b.val ^^^ j ∧ b.val ^^^ j < 64 ∧
      (b.val ^^^ j) &&& j ≠ 0 ∧ (j ≤ b.val → m.getLsbD (b.val - j) = false)) ∧
    (b.val &&& j ≠ 0 → m.getLsbD b = false ∧ j ≤ b.val ∧ b.val - j = b.val ^^^ j ∧ b.val ^^^ j < 64 ∧
      (b.val ^^^ j) &&& j = 0 ∧ m.getLsbD (b.val - j) = true)

theorem isMask_1 : IsMask 1 0x5555555555555555 := by decide
theorem isMask_2 : IsMask 2 0x3333333333333333 := by decide
theorem isMask_4 : IsMask 4 0x0F0F0F0F0F0F0F0F := by decide
theorem isMask_8 : IsMask 8 0x00FF00FF00FF00FF := by decide
theorem isMask_16 : IsMask 16 0x0000FFFF0000FFFF := by decide
theorem isMask_32 : IsMask 32 0x00000000FFFFFFFF := by decide

/-- A stage of the bit-reversal network flips bit `j` of every bit index (R60). -/
theorem getLsbD_swapGroups {j : Nat} {m : Word} (hm : IsMask j m) (y : Word) {b : Nat} (hb : b < 64) :
    (swapGroups j m y).getLsbD b = y.getLsbD (b ^^^ j) := by
  obtain ⟨hlo, hhi⟩ := hm ⟨b, hb⟩
  simp only [swapGroups, BitVec.getLsbD_or, BitVec.getLsbD_and, BitVec.getLsbD_ushiftRight, BitVec.getLsbD_shiftLeft, hb,
    decide_true, Bool.true_and]
  by_cases h : b &&& j = 0
  · obtain ⟨h1, h2, -, -, -, h6⟩ := hlo h
    by_cases hj : j ≤ b
    · simp [h1, h2, h6 hj]
    · simp [h1, h2, Nat.lt_of_not_le hj]
  · obtain ⟨h1, h2, h3, -, -, h6⟩ := hhi h
    have hn : ¬ b < j := Nat.not_lt.mpr h2
    rw [h3] at h6
    simp [h1, h3, h6, hn]

theorem regBit_setIfInBounds (brf : BlockRegs) {k : Nat} (hk : k < 64) (w : Word) (r b : Nat) :
    regBit (brf.setIfInBounds k w) r b = if r = k then w.getLsbD b else regBit brf r b := by
  unfold regBit
  by_cases h : r = k
  · subst h; simp [hk]
  · simp [h, Vector.getElem?_setIfInBounds_ne (Ne.symm h)]

theorem BlockRegs.ext_of_regBit {p q : BlockRegs} (h : ∀ r < 64, ∀ b < 64, regBit p r b = regBit q r b) : p = q := by
  refine Vector.ext fun r hr => BitVec.eq_of_getLsbD_eq fun b hb => ?_
  simpa [regBit, hr] using h r hr b hb

/-- What the exchange of rows `k` and `k ^ j` leaves in every bit (R67). -/
theorem regBit_exchangeRows {j : Nat} {m : Word} (hm : IsMask j m) (brf : BlockRegs) {k : Nat} (hk : k < 64)
    (hkj : k &&& j = 0) {r b : Nat} (hr : r < 64) (hb : b < 64) :
    regBit (exchangeRows j m brf k) r b =
      if (r = k ∧ b &&& j = 0) ∨ (r = k ^^^ j ∧ b &&& j ≠ 0) then regBit brf (r ^^^ j) (b ^^^ j) else regBit brf r b := by
  obtain ⟨-, -, hor, hlt, hset, -⟩ := (hm ⟨k, hk⟩).1 hkj
  obtain ⟨hlo, hhi⟩ := hm ⟨b, hb⟩
  have hne : k ≠ k ^^^ j := fun h => hset (h ▸ hkj)
  have hback : k ^^^ j ^^^ j = k := by rw [Nat.xor_assoc, Nat.xor_self, Nat.xor_zero]
  simp only [exchangeRows, hor]
  rw [regBit_setIfInBounds _ hlt, regBit_setIfInBounds _ hk]
  by_cases h2 : r = k ^^^ j
  · subst h2
    have hnk : ¬ k ^^^ j = k := fun h => hne h.symm
    simp only [if_true, hnk, false_and, false_or, true_and, hback]
    by_cases h : b &&& j = 0
    · obtain ⟨-, -, -, -, -, h6⟩ := hlo h
      by_cases hj : j ≤ b
      · simp [h, h6 hj, regBit]
      · simp [h, Nat.lt_of_not_le hj, regBit]
    · obtain ⟨-, h2, h3, -, -, h6⟩ := hhi h
      have hn : ¬ b < j := Nat.not_lt.mpr h2
      have hadd : j + (b ^^^ j) = b := h3 ▸ Nat.add_sub_cancel' h2
      rw [h3] at h6
      simp only [h, regBit, BitVec.getLsbD_xor, BitVec.getLsbD_shiftLeft, BitVec.getLsbD_and, BitVec.getLsbD_ushiftRight,
        hb, hn, h3, h6, hadd, decide_true, decide_false, Bool.true_and, Bool.not_false, Bool.and_true, ne_eq,
        not_false_eq_true, if_true]
      cases (brf[k ^^^ j]?.getD 0).getLsbD b <;> simp
  · by_cases h1 : r = k
    · subst h1
      simp only [h2, if_false, if_true, true_and, false_and, or_false]
      by_cases h : b &&& j = 0
      · obtain ⟨h1, h2, -, -, -, -⟩ := hlo h
        simp [h, h1, h2, regBit]
      · obtain ⟨h1, -, -, -, -, -⟩ := hhi h
        simp [h, h1, regBit]
    · simp [h1, h2]

/-- A run of exchanges over rows `ks`, all with bit `j` clear. -/
theorem regBit_foldl_exchangeRows {j : Nat} {m : Word} (hm : IsMask j m) {ks : List Nat} (hnodup : ks.Nodup)
    (hks : ∀ k ∈ ks, k < 64 ∧ k &&& j = 0) (brf : BlockRegs) {r b : Nat} (hr : r < 64) (hb : b < 64) :
    regBit (ks.foldl (exchangeRows j m) brf) r b =
      if (r ∈ ks ∧ b &&& j = 0) ∨ (r ^^^ j ∈ ks ∧ b &&& j ≠ 0) then regBit brf (r ^^^ j) (b ^^^ j)
      else regBit brf r b := by
  induction ks generalizing brf with
  | nil => simp
  | cons k rest ih =>
    obtain ⟨hk, hkj⟩ := hks k (List.mem_cons_self ..)
    obtain ⟨hkr, hrest⟩ := List.nodup_cons.mp hnodup
    have hxor : ∀ x, x ^^^ j ^^^ j = x := fun x => by rw [Nat.xor_assoc, Nat.xor_self, Nat.xor_zero]
    have heq : r = k ^^^ j ↔ r ^^^ j = k := ⟨fun h => by rw [h, hxor], fun h => by rw [← h, hxor]⟩
    have hbj : b ^^^ j < 64 := by
      by_cases h : b &&& j = 0
      · exact ((hm ⟨b, hb⟩).1 h).2.2.2.1
      · exact ((hm ⟨b, hb⟩).2 h).2.2.2.1
    have hrj : r ^^^ j < 64 := by
      by_cases h : r &&& j = 0
      · exact ((hm ⟨r, hr⟩).1 h).2.2.2.1
      · exact ((hm ⟨r, hr⟩).2 h).2.2.2.1
    have hflip : (b ^^^ j) &&& j = 0 ↔ b &&& j ≠ 0 := by
      by_cases h : b &&& j = 0
      · exact iff_of_false ((hm ⟨b, hb⟩).1 h).2.2.2.2.1 (not_not.mpr h)
      · exact iff_of_true ((hm ⟨b, hb⟩).2 h).2.2.2.2.1 h
    rw [List.foldl_cons, ih hrest fun x hx => hks x (List.mem_cons_of_mem _ hx),
      regBit_exchangeRows hm brf hk hkj hr hb, regBit_exchangeRows hm brf hk hkj hrj hbj, hxor, hxor]
    simp only [List.mem_cons, ne_eq, hflip, heq]
    by_cases hbz : b &&& j = 0
    · by_cases h1 : r = k
      · subst h1; simp [hbz, hkr]
      · by_cases h3 : r ∈ rest
        · have : r ^^^ j ≠ k := fun h => by
            have := (hks r (List.mem_cons_of_mem _ h3)).2
            have hs : (k ^^^ j) &&& j ≠ 0 := ((hm ⟨k, hk⟩).1 hkj).2.2.2.2.1
            rw [← h, hxor] at hs
            exact hs this
          simp [hbz, h1, h3, this]
        · simp [hbz, h1, h3]
    · by_cases h1 : r ^^^ j = k
      · simp [hbz, h1, hkr]
      · by_cases h3 : r ^^^ j ∈ rest
        · have : r ≠ k := fun h => by
            have := (hks _ (List.mem_cons_of_mem _ h3)).2
            have hs : (k ^^^ j) &&& j ≠ 0 := ((hm ⟨k, hk⟩).1 hkj).2.2.2.2.1
            rw [← h] at hs
            exact hs this
          simp [hbz, h1, h3, this]
        · simp [hbz, h1, h3]

/-- The rows `k` that the inner loop visits with width `j`, from `k` on (R67). -/
def visitedFrom (j : Nat) : Nat → Nat → List Nat
  | 0, _ => []
  | fuel + 1, k => if k < 64 then k :: visitedFrom j fuel (((k ||| j) + 1) &&& (127 ^^^ j)) else []

theorem exchangeFrom_eq_foldl (j : Nat) (m : Word) (fuel k : Nat) (brf : BlockRegs) :
    exchangeFrom j m fuel k brf = (visitedFrom j fuel k).foldl (exchangeRows j m) brf := by
  induction fuel generalizing k brf with
  | zero => rfl
  | succ fuel ih =>
    simp only [exchangeFrom, visitedFrom]
    split
    · rw [ih, List.foldl_cons]
    · rfl

/-- The loop visits each row whose bit `j` is 0 once (R67). -/
theorem visitedFrom_zero {j : Nat} (hj : j = 32 ∨ j = 16 ∨ j = 8 ∨ j = 4 ∨ j = 2 ∨ j = 1) :
    (visitedFrom j 32 0).Nodup ∧ (∀ k ∈ visitedFrom j 32 0, k < 64 ∧ k &&& j = 0) ∧
      ∀ k : Fin 64, k.val &&& j = 0 → k.val ∈ visitedFrom j 32 0 := by
  rcases hj with rfl | rfl | rfl | rfl | rfl | rfl <;> decide

/-- One width of the butterfly transpose: where bit `j` of the row index and of the bit index agree, both are flipped
(R68). -/
theorem regBit_exchangeFrom {j : Nat} (hj : j = 32 ∨ j = 16 ∨ j = 8 ∨ j = 4 ∨ j = 2 ∨ j = 1) {m : Word}
    (hm : IsMask j m) (brf : BlockRegs) {r b : Nat} (hr : r < 64) (hb : b < 64) :
    regBit (exchangeFrom j m 32 0 brf) r b =
      if (r &&& j = 0 ↔ b &&& j = 0) then regBit brf (r ^^^ j) (b ^^^ j) else regBit brf r b := by
  obtain ⟨hnodup, hsub, hsup⟩ := visitedFrom_zero hj
  have hmem : ∀ k, k < 64 → (k ∈ visitedFrom j 32 0 ↔ k &&& j = 0) := fun k hk =>
    ⟨fun h => (hsub k h).2, fun h => hsup ⟨k, hk⟩ h⟩
  have hflip : r ^^^ j < 64 ∧ ((r ^^^ j) &&& j = 0 ↔ r &&& j ≠ 0) := by
    by_cases h : r &&& j = 0
    · obtain ⟨-, -, -, h4, h5, -⟩ := (hm ⟨r, hr⟩).1 h
      exact ⟨h4, iff_of_false h5 (not_not.mpr h)⟩
    · obtain ⟨-, -, -, h4, h5, -⟩ := (hm ⟨r, hr⟩).2 h
      exact ⟨h4, iff_of_true h5 h⟩
  rw [exchangeFrom_eq_foldl, regBit_foldl_exchangeRows hm hnodup hsub brf hr hb]
  simp only [hmem r hr, hmem _ hflip.1, hflip.2]
  by_cases h1 : r &&& j = 0 <;> by_cases h2 : b &&& j = 0 <;> simp [h1, h2]

/-- One pass of the outer loop (R67). -/
theorem transposeFrom_succ {j : Nat} (hj : j ≠ 0) (fuel : Nat) (m : Word) (brf : BlockRegs) :
    transposeFrom (fuel + 1) j m brf =
      transposeFrom fuel (j / 2) (m ^^^ (m <<< (j / 2))) (exchangeFrom j m 32 0 brf) := if_neg hj

/-- The network is its six widths, each under its mask (R67). -/
theorem butterflyTranspose_eq (brf : BlockRegs) :
    butterflyTranspose brf =
      exchangeFrom 1 0x5555555555555555 32 0 (exchangeFrom 2 0x3333333333333333 32 0
        (exchangeFrom 4 0x0F0F0F0F0F0F0F0F 32 0 (exchangeFrom 8 0x00FF00FF00FF00FF 32 0
          (exchangeFrom 16 0x0000FFFF0000FFFF 32 0 (exchangeFrom 32 0x00000000FFFFFFFF 32 0 brf))))) := by
  have m16 : (0x00000000FFFFFFFF : Word) ^^^ ((0x00000000FFFFFFFF : Word) <<< (32 / 2)) = 0x0000FFFF0000FFFF := by decide
  have m8 : (0x0000FFFF0000FFFF : Word) ^^^ ((0x0000FFFF0000FFFF : Word) <<< (32 / 2 / 2)) = 0x00FF00FF00FF00FF := by decide
  have m4 : (0x00FF00FF00FF00FF : Word) ^^^ ((0x00FF00FF00FF00FF : Word) <<< (32 / 2 / 2 / 2)) = 0x0F0F0F0F0F0F0F0F := by decide
  have m2 : (0x0F0F0F0F0F0F0F0F : Word) ^^^ ((0x0F0F0F0F0F0F0F0F : Word) <<< (32 / 2 / 2 / 2 / 2)) = 0x3333333333333333 := by
    decide
  have m1 : (0x3333333333333333 : Word) ^^^ ((0x3333333333333333 : Word) <<< (32 / 2 / 2 / 2 / 2 / 2)) = 0x5555555555555555 := by
    decide
  rw [butterflyTranspose, transposeFrom_succ (by decide), m16, transposeFrom_succ (by decide), m8,
    transposeFrom_succ (by decide), m4, transposeFrom_succ (by decide), m2, transposeFrom_succ (by decide), m1,
    transposeFrom_succ (by decide), transposeFrom]

end Sys2Proof.Machine
end

