-- ==== Sys2Proof/Laws/PerInstr.lean ====
section
/-! SUPPORT. What holds of every command as syntax: it is well formed, and its word is legal (R56, R57). -/

namespace Sys2Proof.Laws.LegalWord

/-- A command is well formed, its word has `RSVD = 0` and an assigned `OP`, and the opcode map gives it back. -/
def Statement (i : Instr) : Prop :=
  i.wellFormed = true ∧ (splitWord (encode i)).wellFormed = true ∧ decodeOp (opcode i) = some i

theorem nop : Statement .nop := ⟨rfl, rfl, rfl⟩
theorem frev : Statement .frev := ⟨rfl, rfl, rfl⟩
theorem brev : Statement .brev := ⟨rfl, rfl, rfl⟩
theorem baddr : Statement .baddr := ⟨rfl, rfl, rfl⟩
theorem tpose : Statement .tpose := ⟨rfl, rfl, rfl⟩
theorem rotblk : Statement .rotblk := ⟨rfl, rfl, rfl⟩
theorem cycle4 : Statement .cycle4 := ⟨rfl, rfl, rfl⟩
theorem rotmat : Statement .rotmat := ⟨rfl, rfl, rfl⟩

end Sys2Proof.Laws.LegalWord
end

