-- ==== Sys2Proof/Laws/Run.lean ====
section
/-! SUPPORT. Runs of core steps, put together from shorter runs. -/

namespace Sys2Proof.Machine

variable {s t u : State}

theorem stepsTo_zero (s : State) : stepsTo 0 s s := rfl

theorem stepsTo_zero_iff : stepsTo 0 s t ↔ s = t :=
  ⟨fun h => Host.Outcome.next.inj h, fun h => h ▸ stepsTo_zero s⟩

theorem run_succ_iff (M : Host.Core) (k : Nat) (s u : M.State) :
    M.run (k + 1) s = .next u ↔ ∃ t, M.step s = .next t ∧ M.run k t = .next u := by
  rw [Host.Core.run]
  cases M.step s <;> simp

theorem stepsTo_succ_iff {k : Nat} : stepsTo (k + 1) s u ↔ ∃ t, step s = .next t ∧ stepsTo k t u :=
  run_succ_iff Sys2Proof.core k s u

theorem stepsTo_succ {k : Nat} (h : step s = .next t) (hk : stepsTo k t u) : stepsTo (k + 1) s u :=
  stepsTo_succ_iff.mpr ⟨t, h, hk⟩

theorem stepsTo_one (hs : s.schedule = []) (h : coreStep s = .next t) : stepsTo 1 s t :=
  stepsTo_succ ((step_of_schedule_nil hs).trans h) (stepsTo_zero t)

theorem stepsTo_trans {j k : Nat} (h : stepsTo j s t) (hk : stepsTo k t u) : stepsTo (j + k) s u := by
  induction j generalizing s with
  | zero =>
    obtain rfl := stepsTo_zero_iff.mp h
    simpa using hk
  | succ j ih =>
    obtain ⟨s', hs, hr⟩ := stepsTo_succ_iff.mp h
    rw [Nat.succ_add]
    exact stepsTo_succ hs (ih hr)

end Sys2Proof.Machine
end

