-- ==== Sys2Proof/Tests/Slice0.lean ====
section
/-! SUPPORT. The model's own tests: the well-formedness checks, the words of the encoding tables, single steps with values
from the spec's examples, and for every statement with hypotheses a state and operands that meet them. -/

/-- For the tests: the machine `s`, running command `i`, in FSM state `f`. -/
def Sys2Proof.Machine.State.during (s : Sys2Proof.Machine.State) (i : Sys2Proof.Instr) (f : Sys2Proof.Machine.Fsm) :
    Sys2Proof.Machine.State :=
  { s with busy := true, op := Sys2Proof.encode i, fsm := f }

namespace Sys2Proof.Tests

set_option Elab.async false

open Sys2Proof.Machine

/-! ## Well-formed words, and the words of R55 -/

theorem test_reserved_bits_refused : CommandWord.rsvdZero { rsvd := 1, op := 0x7 } = false := by decide
theorem test_unassigned_opcode_refused : CommandWord.opAssigned { rsvd := 0, op := 0x8 } = false := by decide
theorem test_ill_formed_words_refused :
    CommandWord.wellFormed { rsvd := 0x800000000000000, op := 0x0 } = false ∧
    CommandWord.wellFormed { rsvd := 0, op := 0xF } = false ∧ CommandWord.wellFormed { rsvd := 0, op := 0x7 } = true := by
  decide

theorem test_decode_nop : decode 0x0000000000000000 = .ok .nop := rfl
theorem test_decode_frev : decode 0x0000000000000001 = .ok .frev := rfl
theorem test_decode_brev : decode 0x0000000000000002 = .ok .brev := rfl
theorem test_decode_baddr : decode 0x0000000000000003 = .ok .baddr := rfl
theorem test_decode_tpose : decode 0x0000000000000004 = .ok .tpose := rfl
theorem test_decode_rotblk : decode 0x0000000000000005 = .ok .rotblk := rfl
theorem test_decode_cycle4 : decode 0x0000000000000006 = .ok .cycle4 := rfl
theorem test_decode_rotmat : decode 0x0000000000000007 = .ok .rotmat := rfl
theorem test_decode_rejects :
    decode 0x8 = .error .unassignedOpcode ∧ decode 0xF = .error .unassignedOpcode ∧ decode 0x17 = .error .reservedBits ∧
    decode 0x10 = .error .reservedBits ∧ decode 0x8000000000000000 = .error .reservedBits := ⟨rfl, rfl, rfl, rfl, rfl⟩
theorem test_decode_table_word : decodeTableWord 64 0x7 = some .rotmat ∧ decodeTableWord 64 0x8 = none := ⟨rfl, rfl⟩

/-! ## States for the tests -/

/-- An idle machine with operands: a 3 by 3 grid of blocks, no padding, block (1, 2). -/
def loaded : State :=
  { State.reset with
    dimN := 192, baseAddr := 0x1000, strideS := 24, biI := 1, bjJ := 2, operandX := 0x0123456789ABCDEF
    resultY := 7, faultAddr := 9, resultHeld := 7, faultHeld := 9, ovr := true }

/-- What a step that goes on leaves. -/
def left {α : Type} (o : Host.Outcome State Fault Refusal) (f : State → α) : Option α :=
  match o with
  | .next t => some (f t)
  | .fault _ => none
  | .refused _ => none

/-- A run of core steps, for machines that are not stopped. -/
def steps (k : Nat) (s : State) : Host.Outcome State Fault Refusal := Host.Core.run Sys2Proof.core k s

/-! ## One step of each command -/

/-- R92, its example: `ERRCODE` and `DONE` of an earlier command are gone when `NOP` ends. -/
theorem test_nop_ends :
    left (steps 2 ({ loaded with errcode := 2, done := true }.withFetchWord 64 0)) (fun t => (t.statusWord, t.fsm)) =
      some (0x6, .idle) := by decide +kernel

/-- R64, its example. -/
theorem test_frev_example :
    left (step (loaded.withFetchWord 64 1)) (fun t => (t.resultY, t.fsm)) =
      some (0xF7B3D591E6A2C480, .complete .none) := by decide +kernel

/-- R65, its example. -/
theorem test_brev_example :
    left (step (loaded.withFetchWord 64 2)) (fun t => (t.resultY, t.fsm)) =
      some (0x80C4A2E691D5B3F7, .complete .none) := by decide +kernel

/-- R77, its example. -/
theorem test_baddr_example :
    left (step ({ loaded with biI := 1, bjJ := 1, strideS := 16 }.withFetchWord 64 3)) (fun t => t.resultY) =
      some 0x408 := by decide +kernel

/-- R77, its corner case: the sum wraps, and is zero-extended from the address width. -/
theorem test_baddr_wraps :
    let s := { loaded with biI := 0xFFFFFFFF, bjJ := 0xFFFFFFFF, strideS := 0xFFFFFFFF }
    left (step (s.withFetchWord 64 3)) (fun t => t.resultY) = some 0xFFFFFF8800000038 ∧
    left (step ({ s with aw := 32 }.withFetchWord 64 3)) (fun t => t.resultY) = some 0x38 := by decide +kernel

/-- R71: the row word is loaded as it is. -/
theorem test_tpose_load :
    left (step { loaded.during .tpose .load with ba := 0x2000, row := 5, mem := [(0x2078, 0x80), (0x207F, 0x01)] })
      (fun t => (t.brf[5], t.row, t.fsm)) = some (0x0100000000000080, 6, .load) := by decide +kernel

/-- R71, its example: bit `(0, 0)` is bit 7 of word 0 and goes to bit 63 of word 56, which is stored as it is. -/
theorem test_tpose_transforms :
    let s := { loaded.during .tpose .xform with brf := (Vector.replicate 64 0).set 0 0x80 }
    left (step s) (fun t => (t.row, t.fsm)) = some (0, .store) ∧
    left (step s) (fun t => regBit t.brf 56 63) = some true ∧ left (step s) (fun t => regBit t.brf 0 7) = some false := by
  decide +kernel

/-- R72: the row word is loaded with its bytes reversed, and the last row leads to XFORM. -/
theorem test_rotblk_load :
    left (step { loaded.during .rotblk .load with ba := 0x2000, row := 63, mem := [(0x25E8, 0x80), (0x25EF, 0x01)] })
      (fun t => (t.brf[63], t.row, t.fsm)) = some (0x8000000000000001, 63, .xform) := by decide +kernel

/-- R72: the row word is stored with the bits of each byte reversed, and the last row ends the command. -/
theorem test_rotblk_store :
    left (step { loaded.during .rotblk .store with ba := 0x2000, row := 63, brf := (Vector.replicate 64 0).set 63 0x0180 })
      (fun t => (t.mem, t.fsm)) = some ([(0x25E8, 0x01), (0x25E9, 0x80)], .complete .none) := by decide +kernel

/-- R81: the fourth access reads C's row of the cycle of (1, 2) in a 3 by 3 grid, which is block (1, 0). -/
theorem test_cycle4_reads_c :
    left (step { loaded.during .cycle4 (.cyc 3) with ci := 1, cj := 2, row := 1, mem := [(0x1618, 0x5A)] })
      (fun t => (t.dr, t.fsm)) = some (0x5A, .cyc 4) := by decide +kernel

/-- R83: the checks, in their order. -/
theorem test_cycle4_checks :
    left (step { loaded.during .cycle4 .check with dimN := 100, biI := 9 }) (fun t => t.fsm) =
      some (.complete .invalidDimension) ∧
    left (step { loaded.during .cycle4 .check with strideS := 23, biI := 9 }) (fun t => t.fsm) =
      some (.complete .invalidStride) ∧
    left (step { loaded.during .cycle4 .check with bjJ := 3 }) (fun t => t.fsm) = some (.complete .coordRange) := by
  decide +kernel

/-- R84, R98: the last access of the last row of the last cycle of a 3 by 3 grid leads to phase 2. -/
theorem test_rotmat_enters_phase_two :
    left (step { loaded.during .rotmat (.cyc 7) with ci := 1, cj := 0, row := 63 })
      (fun t => (t.ph, t.ci, t.cj, t.ba, t.fsm, t.row)) = some (.inBlock, 0, 0, 0x1000, .load, 0) := by decide +kernel

/-- R86, R98: the blocks of phase 2 follow in row-major order. -/
theorem test_rotmat_next_block :
    left (step { loaded.during .rotmat .store with ph := .inBlock, ci := 0, cj := 2, ba := 0x1010, row := 63 })
      (fun t => (t.ci, t.cj, t.ba, t.fsm, t.row)) = some (1, 0, 0x1600, .load, 0) := by decide +kernel

/-! ## States and operands that meet the statements' hypotheses -/

theorem test_witness_DecodeMatchesWholeWord : decode 0x5 = .ok .rotblk ∧ decode 0x6 ≠ .ok .rotblk := by
  exact ⟨rfl, by decide⟩

theorem test_witness_OffsetsFollowCsrMap :
    csrAt 0x48 = some .faultAddr ∧ csrAt 0x50 = none ∧ csrAt 0x01 = none ∧ csrAt 0x47 = none ∧ csrAt 0x7F = none := by
  decide

theorem test_witness_StatusWordLayout :
    ({ loaded with busy := true, done := true, errcode := 0x85 }.csrRead (offsetOf .status)) = 0x8507 ∧ 63 < 64 := by
  decide +kernel

theorem test_witness_CommandWriteIssues :
    let s := { loaded with schedule := [.csrWrite 0x00 0x17, .core] }
    (s.schedule = .csrWrite 0x00 0x17 :: [.core] ∧ s.busy = false) ∧
    ((s.during .frev .check).schedule = .csrWrite 0x00 0x17 :: [.core] ∧ (s.during .frev .check).busy = true) ∧
    decode 0x17 = .error .reservedBits := ⟨⟨rfl, rfl⟩, ⟨rfl, rfl⟩, rfl⟩

theorem test_witness_BusyDropsOperandWrites :
    (∀ off ∈ ([0x00, 0x10, 0x18, 0x20, 0x28, 0x30, 0x38] : List CsrOffset),
      let s := { loaded.during .rotmat .check with schedule := [.csrWrite off 5] }
      s.schedule = .csrWrite off 5 :: [] ∧ s.busy = true) ∧
    (∀ off ∈ ([0x08, 0x40, 0x48, 0x50, 0x7F] : List CsrOffset),
      { loaded with schedule := [.csrWrite off 6] }.schedule = .csrWrite off 6 :: []) ∧
    csrAt 0x50 = none ∧ csrAt 0x7F = none := ⟨fun _ _ => ⟨rfl, rfl⟩, fun _ _ => rfl, rfl, rfl⟩

theorem test_witness_IdleWritesLand :
    ∀ off ∈ ([0x10, 0x18, 0x20, 0x28, 0x30, 0x38] : List CsrOffset),
      let s := { loaded with schedule := [.csrWrite off 0xFFFFFFFFFFFFFFFF] }
      s.schedule = .csrWrite off 0xFFFFFFFFFFFFFFFF :: [] ∧ s.busy = false := fun _ _ => ⟨rfl, rfl⟩

theorem test_witness_ReadsReturnRegisters :
    ∀ off ∈ ([0x00, 0x08, 0x10, 0x18, 0x20, 0x28, 0x30, 0x38, 0x40, 0x48, 0x50, 0x7F] : List CsrOffset),
      let s := { loaded with schedule := [.csrRead off] }
      s.schedule = .csrRead off :: [] ∧ s.busy = false := fun _ _ => ⟨rfl, rfl⟩

/-- The running command has written `RESULT`; the host still reads the value of before. -/
theorem test_witness_RunningCommandHidesResults :
    let s := loaded.during .frev .check
    let t := raise .none { s with resultY := fullBitReverse s.operandX }
    s.busy = true ∧ coreStep s = .next t ∧ t.busy = true ∧ t.resultY ≠ s.resultY ∧ t.csrRead (offsetOf .result) = 7 := by
  exact ⟨rfl, rfl, rfl, by decide +kernel, by decide +kernel⟩

theorem test_witness_WaitPollsUntilIdle :
    let s := { loaded with schedule := [.wait] }
    (s.schedule = .wait :: [] ∧ s.busy = false) ∧
    ((s.during .rotmat (.cyc 0)).schedule = .wait :: [] ∧ (s.during .rotmat (.cyc 0)).busy = true) := ⟨⟨rfl, rfl⟩, ⟨rfl, rfl⟩⟩

theorem test_witness_FullBitReverseMirrorsWord :
    [(32, (0x00000000FFFFFFFF : Word)), (1, 0x5555555555555555), (2, 0x3333333333333333), (4, 0x0F0F0F0F0F0F0F0F),
        (8, 0x00FF00FF00FF00FF), (16, 0x0000FFFF0000FFFF)].Perm
      [(1, 0x5555555555555555), (2, 0x3333333333333333), (4, 0x0F0F0F0F0F0F0F0F),
        (8, 0x00FF00FF00FF00FF), (16, 0x0000FFFF0000FFFF), (32, 0x00000000FFFFFFFF)] ∧
    (0 < 64 ∧ 63 < 64) := by decide +kernel

theorem test_witness_ReversalsByBits :
    (fullBitReverse 0x8000000000000000).getLsbD 0 = true ∧ (fullBitReverse 1).getLsbD 63 = true ∧
    byteLocalBitReverse 0x0100000000000000 = 0x8000000000000000 ∧
    byteOf (byteLocalBitReverse (fullBitReverse 0xAB)) 7 = 0xAB := by decide +kernel

/-- Two words that differ and agree in byte 0. -/
theorem test_witness_ReversalLaws :
    byteOf 0x01FF 0 = byteOf 0x02FF 0 ∧ byteOf 0x01FF 1 ≠ byteOf 0x02FF 1 ∧ 0 < 8 := by decide +kernel

/-- Bit 63 of word 0 stays, bit 0 of word 0 goes to word 63 (r, b at both ends). -/
theorem test_witness_ButterflyTransposesBlock :
    let m := butterflyTranspose ((Vector.replicate 64 0).set 0 0x8000000000000001)
    regBit m 0 63 = true ∧ regBit m 63 63 = true ∧ regBit m 0 0 = false := by decide +kernel

theorem test_witness_RotateBlockWordsMapsBits :
    let m := rotateBlockWords ((Vector.replicate 64 0).set 0 0x80)
    m[0] = 0x0100000000000000 ∧ regBit m 0 56 = true := by decide +kernel

/-- An access that wraps at the end of a 64 KiB space. -/
theorem test_witness_ReadIsLittleEndian :
    let s := { loaded with aw := 16, mem := [(0, 0xAA), (0xFFFF, 0x55)] }
    s.memRead 0xFFFF = 0xAA55 ∧ s.readByte ((0xFFFF + 1) % 2 ^ s.aw) = 0xAA ∧ 7 < 8 := by decide +kernel

theorem test_witness_WriteThenReadReturnsWord :
    let s := { loaded with aw := 16 }
    16 ≤ s.aw ∧ (∀ g < 8, 8 ≠ (0xFFFF + g) % 2 ^ s.aw) ∧ (s.memWrite 0xFFFF 0xAA55).mem = [(0, 0xAA), (0xFFFF, 0x55)] := by
  decide +kernel

/-- Columns 0 and 63 of row 1 of a block. -/
theorem test_witness_ColumnsOfRowWord :
    let s := { loaded with mem := [(0x1018, 0x80), (0x101F, 0x01)] }
    63 < 64 ∧ s.blockBit 0x1000 1 0 = true ∧ s.blockBit 0x1000 1 63 = true ∧ (s.memRead 0x1018).getLsbD 56 = true := by
  decide +kernel

theorem test_witness_BlocksTileMatrix :
    let s := { loaded with mem := [(0x1617, 0x01)] }
    63 < 64 ∧ s.blockAddr 1 2 = 0x1610 ∧ s.blockBit 0x1610 0 63 = true ∧ s.matrixBit 64 191 = true := by decide +kernel

/-- The only cell of n = 1 and the centre of n = 3, and a cycle of distinct cells of n = 3 and of n = 2. -/
theorem test_witness_CycleCellsAreCentreOrDistinct :
    ((0 < 1 ∧ 2 * 0 + 1 = 1) ∧ (1 < 3 ∧ 2 * 1 + 1 = 3)) ∧
    (¬(2 * 0 + 1 = 3 ∧ 2 * 2 + 1 = 3) ∧ ¬(2 * 1 + 1 = 2 ∧ 2 * 1 + 1 = 2)) ∧
    (∀ p, cycleCoords 3 1 1 p = (1, 1)) := by
  refine ⟨by decide, by decide, fun p => ?_⟩
  cases p <;> rfl

/-- A grid of odd size, its range, and cells of each clause. -/
theorem test_witness_PhaseOneCoversGrid :
    (3 = 2 * 1 + 1 ∧ 2 < 3 ∧ ¬(2 * 2 + 1 = 3 ∧ 2 * 1 + 1 = 3)) ∧ (1 < (3 + 1) / 2 ∧ 0 < 3 / 2) ∧
    cycleCoords 3 1 0 .cellD = (2, 1) ∧ cycleCoords 3 0 0 .cellB = (0, 2) := by decide

theorem test_witness_StepRunsDecodedCommand :
    let s := loaded.during .frev .check
    s.fsm ≠ .idle ∧ decode s.op = .ok .frev ∧ s.schedule = [] ∧
    { s with schedule := [.core, .wait] }.schedule = .core :: [.wait] := ⟨by decide, rfl, rfl, rfl⟩

theorem test_witness_CompleteStepEndsCommand :
    ∀ code, (loaded.during .rotmat (.complete code)).fsm = .complete code ∧ (loaded.during .rotmat (.complete code)).schedule = [] :=
  fun _ => ⟨rfl, rfl⟩

/-- The hypotheses of the statements about the check step: `NopOnlyCompletes`, `FrevReversesOperand`,
`BrevReversesOperandBytes`, `BaddrComputesOffset`, `BlockCommandsStart`. -/
theorem test_witness_check_state :
    ∀ i, (loaded.during i .check).fsm = .check ∧ (loaded.during i .check).aw ≤ 64 :=
  fun _ => ⟨rfl, Nat.le_refl 64⟩

/-- Rows 0, 62 and 63, for each of the three commands. -/
theorem test_witness_LoadStepFillsRegister :
    ∀ row ∈ ([0, 62, 63] : List (BitVec 6)), ∀ i ∈ [Instr.tpose, .rotblk, .rotmat],
      let s := { loaded.during i .load with row := row }
      s.fsm = .load ∧ s.memOk .read ((s.ba.toNat + s.row.toNat * s.strideS.toNat) % 2 ^ s.aw) = true ∧
      (i = .tpose ∨ i = .rotblk ∨ i = .rotmat) := by decide +kernel

theorem test_witness_TransformStepTransposes :
    ∀ i ∈ [Instr.tpose, .rotblk, .rotmat], (loaded.during i .xform).fsm = .xform ∧ (i = .tpose ∨ i = .rotblk ∨ i = .rotmat) := by
  decide

/-- Rows 62 and 63 of each command, and the three places that `ROTMAT` can be at after row 63: a next block in the row of
blocks, a next row of blocks, the end. -/
theorem test_witness_StoreStepWritesRow :
    (∀ row ∈ ([62, 63] : List (BitVec 6)), ∀ i ∈ [Instr.tpose, .rotblk, .rotmat],
      let s := { loaded.during i .store with row := row }
      s.fsm = .store ∧ 16 ≤ s.aw ∧ s.memOk .write ((s.ba.toNat + s.row.toNat * s.strideS.toNat) % 2 ^ s.aw) = true) ∧
    (let s := { loaded.during .rotmat .store with row := 63, ci := 1, cj := 1 }
     s.ci.toNat < s.dimN.toNat / 64 ∧ s.cj.toNat + 1 < s.dimN.toNat / 64) ∧
    (let s := { loaded.during .rotmat .store with row := 63, ci := 1, cj := 2 }
     s.cj.toNat + 1 = s.dimN.toNat / 64 ∧ s.ci.toNat + 1 < s.dimN.toNat / 64) ∧
    (let s := { loaded.during .rotmat .store with row := 63, ci := 2, cj := 2 }
     s.cj.toNat + 1 = s.dimN.toNat / 64 ∧ s.ci.toNat + 1 = s.dimN.toNat / 64) := by decide +kernel

/-- Each branch of the checks: N = 0 and N = 65; stride one too small; a coordinate just out of range; none. -/
theorem test_witness_CycleCommandChecks :
    left (exec .cycle4 { loaded.during .cycle4 .check with dimN := 0 }) (fun t => t.fsm) =
      some (.complete .invalidDimension) ∧
    left (exec .cycle4 { loaded.during .cycle4 .check with dimN := 65 }) (fun t => t.fsm) =
      some (.complete .invalidDimension) ∧
    left (exec .cycle4 { loaded.during .cycle4 .check with strideS := 23 }) (fun t => t.fsm) =
      some (.complete .invalidStride) ∧
    left (exec .cycle4 { loaded.during .cycle4 .check with biI := 3 }) (fun t => t.fsm) = some (.complete .coordRange) ∧
    left (exec .cycle4 (loaded.during .cycle4 .check)) (fun t => (t.ci, t.cj, t.fsm)) = some (1, 2, .cyc 0) := by
  decide +kernel

/-- Each branch of the checks: N = 63, stride one too small, n = 1, n = 3. -/
theorem test_witness_MatrixCommandChecks :
    left (exec .rotmat { loaded.during .rotmat .check with dimN := 63 }) (fun t => t.fsm) =
      some (.complete .invalidDimension) ∧
    left (exec .rotmat { loaded.during .rotmat .check with strideS := 23 }) (fun t => t.fsm) =
      some (.complete .invalidStride) ∧
    left (exec .rotmat { loaded.during .rotmat .check with dimN := 64 }) (fun t => (t.ph, t.fsm, t.ba)) =
      some (.inBlock, .load, 0x1000) ∧
    left (exec .rotmat (loaded.during .rotmat .check)) (fun t => (t.ph, t.fsm, t.ci)) = some (.relocation, .cyc 0, 0) := by
  decide +kernel

/-- Each access, of row 0 and of row 62, for both commands; the platform accepts any. -/
theorem test_witness_CycleRowMovesWords :
    ∀ k : Fin 8, ∀ row ∈ ([0, 62] : List (BitVec 6)), ∀ i ∈ [Instr.cycle4, .rotmat],
      let s := { loaded.during i (.cyc k) with row := row, ci := 1, cj := 0 }
      s.fsm = .cyc k ∧ s.memOk (cycleAccess k).kind (s.cycAddr k) = true ∧ s.row ≠ 63 ∧ (i = .cycle4 ∨ i = .rotmat) := by
  decide +kernel

/-- The last access of a cycle, and the three places that `ROTMAT` can be at, in a 5 by 5 grid: a next cycle in the row, a
next row, the end of the range. -/
theorem test_witness_CycleEndsOrGoesOn :
    ∀ p ∈ ([(0, 0), (0, 1), (2, 1)] : List (Nat × Nat)),
      let s := { loaded.during .rotmat (.cyc 7) with dimN := 320, strideS := 40, ci := .ofNat 32 p.1, cj := .ofNat 32 p.2, row := 63 }
      (s.fsm = .cyc 7 ∧ s.row = 63) ∧
      s.memOk .write ((s.blockAddr s.cj.toNat (s.numBlocks - 1 - s.ci.toNat) + 63 * s.strideS.toNat) % 2 ^ s.aw) = true ∧
      (s.ci.toNat < (s.dimN.toNat / 64 + 1) / 2 ∧ s.cj.toNat < s.dimN.toNat / 64 / 2) ∧
      (s.cj.toNat + 1 < s.dimN.toNat / 64 / 2 ∨
        (s.cj.toNat + 1 = s.dimN.toNat / 64 / 2 ∧ s.ci.toNat + 1 < (s.dimN.toNat / 64 + 1) / 2) ∨
        (s.cj.toNat + 1 = s.dimN.toNat / 64 / 2 ∧ s.ci.toNat + 1 = (s.dimN.toNat / 64 + 1) / 2)) := by decide +kernel

theorem test_witness_IllegalWordEndsAtCheck :
    ∀ w ∈ ([0x8, 0xF, 0x10, 0x17] : List Nat),
      let s := { loaded with busy := true, fsm := .check, op := .ofNat 64 w }
      s.fsm = .check ∧ s.schedule = [] ∧ (s.op.toNat / 16 ≠ 0 ∨ 8 ≤ s.op.toNat % 16) := by decide +kernel

theorem test_witness_FailedChecksTouchNothing :
    ((loaded.during .cycle4 .check).issued .cycle4 ∧ (loaded.during .rotmat .check).issued .rotmat) ∧
    ({ loaded with dimN := 0 }.dimN.toNat = 0 ∧ { loaded with dimN := 65 }.dimN.toNat % 64 ≠ 0) ∧
    (loaded.dimN.toNat ≠ 0 ∧ loaded.dimN.toNat % 64 = 0 ∧ { loaded with strideS := 23 }.strideS.toNat < 192 / 8) ∧
    (loaded.dimN.toNat / 8 ≤ loaded.strideS.toNat ∧ loaded.dimN.toNat / 64 ≤ { loaded with bjJ := 3 }.bjJ.toNat) := by
  exact ⟨⟨⟨rfl, rfl, rfl, rfl⟩, ⟨rfl, rfl, rfl, rfl⟩⟩, by decide, by decide, by decide⟩

/-- A platform that refuses every access. -/
def refusing : State :=
  { loaded with ba := 0x1000, refusals := [⟨.read, 0, 2 ^ 64 - 1⟩, ⟨.write, 0, 2 ^ 64 - 1⟩] }

theorem test_witness_RefusedAccessEndsCommand :
    (∀ i ∈ [Instr.tpose, .rotblk, .rotmat], (refusing.during i .load).fsm = .load ∧
      (refusing.during i .load).memOk .read (refusing.during i .load).currentRowAddr = false) ∧
    (∀ i ∈ [Instr.tpose, .rotblk, .rotmat], (refusing.during i .store).fsm = .store ∧
      (refusing.during i .store).memOk .write (refusing.during i .store).currentRowAddr = false) ∧
    (∀ i ∈ [Instr.cycle4, .rotmat], ∀ k : Fin 8, (refusing.during i (.cyc k)).fsm = .cyc k ∧
      (refusing.during i (.cyc k)).memOk (cycleAccess k).kind ((refusing.during i (.cyc k)).cycAddr k) = false) := by
  decide +kernel

/-- The first STORE step of a `ROTBLK`, on block (1, 2). -/
def storing : State := { loaded.during .rotblk .store with ci := 1, cj := 2, ba := 0x1610, brf := Vector.replicate 64 1 }

theorem test_witness_CoreNeverWritesOperands :
    (left (coreStep storing) (fun t => t.fsm)).isSome = true ∧ storing.fsm ≠ .idle := by decide +kernel

/-- A step that changes `RESULT`, one that changes `FAULTADDR`, one that changes memory. -/
theorem test_witness_CoreWritesResultsOnlyWhere :
    left (coreStep (loaded.during .frev .check)) (fun t => decide (t.resultY ≠ loaded.resultY)) = some true ∧
    left (coreStep (refusing.during .tpose .load)) (fun t => decide (t.faultAddr ≠ refusing.faultAddr)) = some true ∧
    left (coreStep storing) (fun t => decide (t.mem ≠ storing.mem)) = some true := by decide +kernel

theorem storing_inv : storing.Inv where
  width := by decide
  memWf := by decide
  memInSpace := by decide
  addresses := by decide +kernel
  busyIff := by decide
  quiet := by decide
  codeKnown := by decide
  context := by exact ⟨by decide +kernel, .inl ⟨.inr rfl, rfl, rfl⟩⟩

/-- The invariant's hypotheses, met by a machine in the middle of a `ROTBLK`; a byte outside its footprint, just past the
first row. -/
theorem test_witness_CoreStaysInFootprint :
    storing.Inv ∧ (left (coreStep storing) (fun t => t.fsm)).isSome = true ∧ 0x1618 ∉ storing.footprint := by
  exact ⟨storing_inv, by decide +kernel, by decide +kernel⟩

theorem test_witness_CoreStepNeverStops : storing.Inv := storing_inv

theorem test_witness_EveryStepKeepsInvariant :
    storing.Inv ∧ (left (step storing) (fun t => t.fsm)).isSome = true := ⟨storing_inv, by decide +kernel⟩

/-- Reset of an idle machine and of one in the middle of a command; a byte outside the footprint. -/
theorem test_witness_ResetAbandonsCommand :
    ({ loaded with schedule := [.reset] }.schedule = .reset :: [] ∧ loaded.busy = false) ∧
    ({ storing with schedule := [.reset] }.schedule = .reset :: [] ∧ storing.busy = true ∧
      0x1618 ∉ storing.footprint) := by
  exact ⟨⟨rfl, rfl⟩, rfl, rfl, by decide +kernel⟩

/-- A write that meets the running footprint in its last byte, one that ends just before it, one of an idle machine that
ends at the end of the address space. -/
theorem test_witness_OutsideWritesRespectFootprint :
    (let s := { storing with schedule := [.memWrite 0x160F [1, 2]] }
     s.schedule = .memWrite 0x160F [1, 2] :: [] ∧ 0x160F + 2 ≤ 2 ^ s.aw ∧ s.busy = true ∧ 0x160F + 1 ∈ s.footprint) ∧
    (let s := { storing with schedule := [.memWrite 0x160E [1, 2]] }
     s.busy = true ∧ ∀ g < 2, 0x160E + g ∉ s.footprint) ∧
    (let s := { loaded with schedule := [.memWrite (2 ^ 64 - 2) [1, 2]] }
     s.busy = false ∧ 2 ^ 64 - 2 + 2 ≤ 2 ^ s.aw) := by decide +kernel

/-- Block (0, 0) with the least stride of the statement, at the very end of a 64 KiB space. -/
def tight (i : Instr) : State :=
  { loaded.during i .check with aw := 16, baseAddr := 0xFE00, strideS := 8, biI := 0, bjJ := 0, dimN := 64 }

theorem test_witness_RotblkRotatesBlock :
    (tight .rotblk).issued .rotblk ∧ (16 ≤ (tight .rotblk).aw ∧ (tight .rotblk).aw ≤ 64) ∧
    (tight .rotblk).footprintAccepted ∧ (tight .rotblk).blockAddr 0 0 = 0xFE00 ∧ (tight .rotblk).blockLiesFlat 0xFE00 := by
  exact ⟨⟨rfl, rfl, rfl, rfl⟩, by decide, fun _ _ _ => rfl, by decide +kernel, by unfold State.blockLiesFlat; decide +kernel⟩

theorem test_witness_TposeTransposesBlock :
    (tight .tpose).issued .tpose ∧ (16 ≤ (tight .tpose).aw ∧ (tight .tpose).aw ≤ 64) ∧
    (tight .tpose).footprintAccepted ∧ (tight .tpose).blockAddr 0 0 = 0xFE00 ∧ (tight .tpose).blockLiesFlat 0xFE00 := by
  exact ⟨⟨rfl, rfl, rfl, rfl⟩, by decide, fun _ _ _ => rfl, by decide +kernel, by unfold State.blockLiesFlat; decide +kernel⟩

/-- Stride 0, with the deciding bit of the row word set for `ROTBLK` and clear for `TPOSE`. -/
theorem test_witness_ZeroStrideKeepsOneBit :
    ∀ i, let s := { loaded.during i .check with strideS := 0, biI := 0, bjJ := 0, mem := [(0x1007, 0x01)] }
    s.issued i ∧ (16 ≤ s.aw ∧ s.aw ≤ 64) ∧ s.footprintAccepted ∧ s.strideS = 0 ∧
    (s.memRead (s.blockAddr 0 0)).getLsbD 56 = true ∧ (s.memRead (s.blockAddr 0 0)).getLsbD 0 = false := by
  exact fun i => ⟨⟨rfl, rfl, rfl, rfl⟩, by exact (by decide : 16 ≤ 64 ∧ 64 ≤ 64), fun _ _ _ => rfl, rfl,
    by cases i <;> decide +kernel, by cases i <;> decide +kernel⟩

/-- A cycle of distinct cells, and the centre. -/
theorem test_witness_CycleMovesFourBlocks :
    ∀ p ∈ ([(1, 2), (1, 1)] : List (Nat × Nat)),
    let s := { loaded.during .cycle4 .check with biI := .ofNat 32 p.1, bjJ := .ofNat 32 p.2 }
    s.issued .cycle4 ∧ s.cycleCheck = .none ∧ 16 ≤ s.aw ∧ s.footprintAccepted ∧ s.matrixLiesFlat := by
  refine fun p hp => ⟨⟨rfl, rfl, rfl, rfl⟩, ?_, by exact (by decide : 16 ≤ 64), fun _ _ _ => rfl, ?_⟩
  · revert p; decide +kernel
  · exact (by decide +kernel : 0x1000 + (192 - 1) * 24 + 192 / 8 ≤ 2 ^ 64)

/-- One block, at the very end of a 64 KiB space, and a 3 by 3 grid. -/
theorem test_witness_RotmatRotatesMatrix :
    ((tight .rotmat).issued .rotmat ∧ (tight .rotmat).matrixCheck = .none ∧ 16 ≤ (tight .rotmat).aw ∧
      (tight .rotmat).aw ≤ 64 ∧ (tight .rotmat).footprintAccepted ∧ (tight .rotmat).matrixLiesFlat) ∧
    (let s := loaded.during .rotmat .check
     s.issued .rotmat ∧ s.matrixCheck = .none ∧ 16 ≤ s.aw ∧ s.aw ≤ 64 ∧ s.footprintAccepted ∧ s.matrixLiesFlat) := by
  refine ⟨⟨⟨rfl, rfl, rfl, rfl⟩, by decide +kernel, by decide, by decide, fun _ _ _ => rfl, ?_⟩,
    ⟨rfl, rfl, rfl, rfl⟩, by decide +kernel, by decide, by decide, fun _ _ _ => rfl, ?_⟩
  · exact (by decide +kernel : 0xFE00 + (64 - 1) * 8 + 64 / 8 ≤ 2 ^ 16)
  · exact (by decide +kernel : 0x1000 + (192 - 1) * 24 + 192 / 8 ≤ 2 ^ 64)

end Sys2Proof.Tests
end

section
/-! The CSR port: what a write does in terms of the CSR it names (R15, R16, R28), and what a cleared machine reads as (R34). -/

namespace Sys2Proof.Machine

variable {s : State} {off : CsrOffset} {c : Csr} {v : Word} {rest : List Event}

/-! ### The CSR at an offset -/

@[simp] theorem csrAt_offsetOf (c : Csr) : csrAt (offsetOf c) = some c := by cases c <;> rfl

@[simp] theorem csrWrite_offsetOf (c : Csr) (v : Word) (s : State) : csrWrite (offsetOf c) v s = writeCsr c v s := by
  simp [csrWrite]

theorem csrWrite_of_unmapped (h : csrAt off = none) (v : Word) (s : State) : csrWrite off v s = s := by
  simp [csrWrite, h]

theorem State.csrRead_of_mapped (h : csrAt off = some c) (s : State) : s.csrRead off = s.csrValue c := by
  simp [State.csrRead, h]

theorem State.csrRead_of_unmapped (h : csrAt off = none) (s : State) : s.csrRead off = 0 := by
  simp [State.csrRead, h]

/-! ### A write that a busy core drops (R28) -/

theorem whenIdle_of_busy (hb : s.busy = true) (write : State → State) : whenIdle write s = dropWrite s := if_pos hb

/-- A busy core drops a write to every CSR but `STATUS` and the two read-only ones. -/
theorem writeCsr_of_busy (hb : s.busy = true) (hc : c ∉ [Csr.status, .result, .faultAddr]) (v : Word) :
    writeCsr c v s = dropWrite s := by
  cases c with
  | status | result | faultAddr => simp at hc
  | cmd | dim | base | stride | bi | bj | operand => simp [writeCsr, whenIdle_of_busy hb]

/-! ### The transition of a `CsrWrite` -/

theorem step_of_csrWrite (h : s.schedule = .csrWrite off v :: rest) :
    step s = .next (csrWrite off v { s with schedule := rest }) := step_of_schedule_cons h

theorem step_of_csrWrite_offsetOf (h : s.schedule = .csrWrite (offsetOf c) v :: rest) :
    step s = .next (writeCsr c v { s with schedule := rest }) := by
  rw [step_of_csrWrite h, csrWrite_offsetOf]

theorem step_of_csrWrite_unmapped (h : s.schedule = .csrWrite off v :: rest) (hoff : csrAt off = none) :
    step s = .next { s with schedule := rest } := by
  rw [step_of_csrWrite h, csrWrite_of_unmapped hoff]

theorem step_of_csrWrite_busy (h : s.schedule = .csrWrite (offsetOf c) v :: rest) (hb : s.busy = true)
    (hc : c ∉ [Csr.status, .result, .faultAddr]) : step s = .next (dropWrite { s with schedule := rest }) := by
  rw [step_of_csrWrite_offsetOf h, writeCsr_of_busy (s := { s with schedule := rest }) hb hc]

/-! ### A cleared machine (R34, R120) -/

theorem State.statusWord_clearCsrs (s : State) : (clearCsrs s).statusWord = 0 := by simp [State.statusWord, flagAt]

/-- No CSR shows anything once the CSRs are cleared: each field is 0, and an idle core shows neither held value. -/
theorem State.csrValue_clearCsrs (s : State) (c : Csr) : (clearCsrs s).csrValue c = 0 := by
  cases c with
  | status => exact s.statusWord_clearCsrs
  | cmd | dim | base | stride | bi | bj | operand | result | faultAddr => rfl

theorem State.csrRead_clearCsrs (s : State) (off : CsrOffset) : (clearCsrs s).csrRead off = 0 := by
  cases h : csrAt off with
  | none => exact State.csrRead_of_unmapped h _
  | some c => rw [State.csrRead_of_mapped h, State.csrValue_clearCsrs]

/-- The reset state is one whose CSRs are cleared, so what is said of `clearCsrs` is said of it. -/
theorem clearCsrs_reset : clearCsrs State.reset = State.reset := rfl

end Sys2Proof.Machine
end

section
/-! The statements about the CSR port and the reset state of 10_state.md. -/

namespace Sys2Proof.Machine

/-- Settles O7: each listed offset is that of a CSR, and the write is what `writeCsr` does to that CSR (R28). -/
theorem busyDropsOperandWrites : Obligations.BusyDropsOperandWrites := by
  intro s off v rest h
  refine ⟨fun hbusy hoff => ?dropped, fun hoff => ?status, fun hoff => ?ignored⟩
  case dropped =>
    have drops (c : Csr) (hc : c ∉ [Csr.status, .result, .faultAddr]) (hoff : off = offsetOf c) :
        step s = .next (dropWrite { s with schedule := rest }) :=
      step_of_csrWrite_busy (hoff ▸ h) hbusy hc
    rcases hoff with hcmd | hdim | hbase | hstride | hbi | hbj | hoperand
    · exact drops .cmd (by decide) hcmd
    · exact drops .dim (by decide) hdim
    · exact drops .base (by decide) hbase
    · exact drops .stride (by decide) hstride
    · exact drops .bi (by decide) hbi
    · exact drops .bj (by decide) hbj
    · exact drops .operand (by decide) hoperand
  case status =>
    subst hoff
    exact step_of_csrWrite_offsetOf (c := .status) h
  case ignored =>
    rcases hoff with rfl | rfl | hunmapped
    · exact step_of_csrWrite_offsetOf (c := .result) h
    · exact step_of_csrWrite_offsetOf (c := .faultAddr) h
    · exact step_of_csrWrite_unmapped h hunmapped

/-- Settles O47: the reset state is a cleared one (R34), so every read returns 0; each field is 0 as it is written. -/
theorem resetClearsCsrs : Obligations.ResetClearsCsrs := by
  refine ⟨fun off => ?reads, rfl, rfl, rfl, rfl, rfl, rfl, rfl, rfl, rfl, rfl, rfl, rfl, rfl⟩
  case reads => rw [← clearCsrs_reset, State.csrRead_clearCsrs]

end Sys2Proof.Machine
end

section
/-! Words of memory and the columns of a row word (R38, R40 to R42). -/

namespace Sys2Proof.Machine

/-! ### The bytes of a word read or written -/

/-- A word read takes its bytes from memory in the order of their addresses (R40). -/
theorem State.byteOf_memRead (s : State) (a : Nat) {g : Nat} (hg : g < 8) :
    byteOf (s.memRead a) g = s.readByte (s.trunc (a + g)) := by
  refine BitVec.eq_of_getLsbD_eq fun p hp => ?_
  have hbit : 8 * g + p < 64 := by omega
  have hdiv : (8 * g + p) / 8 = g := by omega
  have hmod : (8 * g + p) % 8 = p := by omega
  rw [getLsbD_byteOf, State.getLsbD_memRead, hdiv, hmod, decide_eq_true hp, decide_eq_true hbit, Bool.true_and,
    Bool.true_and]

/-- A word read back where it was written: its eight bytes lie at distinct addresses (R41). -/
theorem State.memRead_memWrite {s : State} (haw : 3 ≤ s.aw) (a : Nat) (v : Word) : (s.memWrite a v).memRead a = v := by
  refine byteOf_inj fun g hg => ?_
  calc byteOf ((s.memWrite a v).memRead a) g
      = (s.memWrite a v).readByte ((s.memWrite a v).trunc (a + g)) := State.byteOf_memRead _ a hg
    _ = (s.memWrite a v).readByte (s.trunc (a + g)) := by rw [State.trunc_congr (memWrite_aw a v s)]
    _ = byteOf v g := State.readByte_memWrite_inside haw a v hg

/-! ### Mirroring the bits of each byte: `c ^ 7` (R42) -/

theorem xor_seven_div (c : Nat) : (c ^^^ 7) / 8 = c / 8 := by
  simpa using Nat.xor_div_two_pow (a := c) (b := 7) (n := 3)

theorem xor_seven_mod (c : Nat) : (c ^^^ 7) % 8 = 7 - c % 8 := by
  have hmod : (c ^^^ 7) % 8 = c % 8 ^^^ 7 := by simpa using Nat.xor_mod_two_pow (a := c) (b := 7) (n := 3)
  have hmirror : ∀ p < 8, p ^^^ 7 = 7 - p := by decide
  rw [hmod, hmirror _ (Nat.mod_lt c (by decide))]

theorem xor_seven_eq (c : Nat) : c ^^^ 7 = 8 * (c / 8) + 7 - c % 8 := by
  have := xor_seven_div c
  have := xor_seven_mod c
  omega

theorem xor_seven_lt {c : Nat} (hc : c < 64) : c ^^^ 7 < 64 := Nat.xor_lt_two_pow (n := 6) hc (by decide)

/-- The row word holds block-local column c in bit `c ^ 7`: the same byte, the mirrored bit (R38, R42). -/
theorem State.getLsbD_rowWord (s : State) (blockAt r : Nat) {c : Nat} (hc : c < 64) :
    (s.memRead (s.rowAddr blockAt r)).getLsbD (c ^^^ 7) = s.blockBit blockAt r c := by
  rw [State.getLsbD_memRead, decide_eq_true (xor_seven_lt hc), Bool.true_and, xor_seven_div, xor_seven_mod,
    State.trunc_rowAddr_add, State.blockBit]

end Sys2Proof.Machine
end

section
/-! The statements about the words of memory of 20_memory.md. -/

namespace Sys2Proof.Machine

/-- Settles O18: R40, as `byteOf_memRead` says it. -/
theorem readIsLittleEndian : Obligations.ReadIsLittleEndian :=
  fun s a _ hg => s.byteOf_memRead a hg

/-- Settles O19: from AW = 3 on the eight addresses of a write are distinct, so each byte stays where it is put (R41). -/
theorem writeThenReadReturnsWord : Obligations.WriteThenReadReturnsWord := by
  intro s a v haw
  have haw : 3 ≤ s.aw := by omega
  refine ⟨fun g hg => ?written, ?readBack, fun b hb => ?others, ?frame⟩
  case written => exact State.readByte_memWrite_inside haw a v hg
  case readBack => exact State.memRead_memWrite haw a v
  case others => exact State.readByte_memWrite_outside v hb
  case frame => rfl

/-- Settles O20: word bit b is column `b ^ 7` because mirroring twice gives b back (R42). -/
theorem columnsOfRowWord : Obligations.ColumnsOfRowWord := by
  intro s blockAt r c hc
  refine ⟨(xor_seven_eq c).symm, s.getLsbD_rowWord blockAt r hc, ?wordBit⟩
  case wordBit => rw [← s.getLsbD_rowWord blockAt r (xor_seven_lt hc), Nat.xor_xor_cancel_right]

end Sys2Proof.Machine
end

section
/-! The fields of a command word, and the decoder as the inverse of the encoder (R54, R55). -/

namespace Sys2Proof

/-! ### The two fields of a word (R54) -/

theorem joinWord_splitWord (w : Word) : joinWord (splitWord w) = w := by
  rw [joinWord, splitWord, BitVec.extractLsb'_append_extractLsb'_eq_extractLsb' (by decide), BitVec.extractLsb'_eq_self]

theorem splitWord_joinWord (c : CommandWord) : splitWord (joinWord c) = c := by
  rw [splitWord, joinWord, BitVec.extractLsb'_append_eq_left, BitVec.extractLsb'_append_eq_right]

theorem eq_joinWord_iff {w : Word} {c : CommandWord} : w = joinWord c ↔ splitWord w = c :=
  ⟨fun h => h ▸ splitWord_joinWord c, fun h => h ▸ (joinWord_splitWord w).symm⟩

theorem CommandWord.rsvdZero_iff {c : CommandWord} : c.rsvdZero = true ↔ c.rsvd = 0 := beq_iff_eq

/-! ### The opcode map (R55) -/

theorem legalWord : ∀ i : Instr, Laws.LegalWord.Statement i
  | .nop => Laws.LegalWord.nop
  | .frev => Laws.LegalWord.frev
  | .brev => Laws.LegalWord.brev
  | .baddr => Laws.LegalWord.baddr
  | .tpose => Laws.LegalWord.tpose
  | .rotblk => Laws.LegalWord.rotblk
  | .cycle4 => Laws.LegalWord.cycle4
  | .rotmat => Laws.LegalWord.rotmat

theorem decodeOp_opcode (i : Instr) : decodeOp (opcode i) = some i := by
  obtain ⟨-, -, hop⟩ := legalWord i
  exact hop

theorem eq_opcode_of_decodeOp {op : BitVec 4} {i : Instr} (h : decodeOp op = some i) : op = opcode i := by
  unfold decodeOp at h
  split at h <;> cases h
  all_goals exact BitVec.eq_of_toNat_eq ‹op.toNat = _›

theorem decodeOp_eq_some_iff {op : BitVec 4} {i : Instr} : decodeOp op = some i ↔ op = opcode i :=
  ⟨eq_opcode_of_decodeOp, fun h => h ▸ decodeOp_opcode i⟩

/-! ### The decoder -/

/-- A word decodes to a command when its reserved bits are 0 and its opcode is the command's. -/
theorem decode_eq_ok_iff {w : Word} {i : Instr} :
    decode w = .ok i ↔ (splitWord w).rsvd = 0 ∧ decodeOp (splitWord w).op = some i := by
  rw [← CommandWord.rsvdZero_iff, decode]
  cases (splitWord w).rsvdZero <;> cases decodeOp (splitWord w).op <;> simp

/-- The two fields are the whole word, so the decoder accepts exactly the words that the encoder writes (R55). -/
theorem decode_eq_ok_iff_eq_encode {w : Word} {i : Instr} : decode w = .ok i ↔ w = encode i := by
  rw [decode_eq_ok_iff, decodeOp_eq_some_iff, encode, eq_joinWord_iff, CommandWord.mk.injEq]

end Sys2Proof
end

section
/-! The statement about the decoder of 30_encoding.md. -/

namespace Sys2Proof

/-- Settles O1: the decoder accepts exactly the encoder's words, and the table's words (R55) are those. -/
theorem decodeMatchesWholeWord : Obligations.DecodeMatchesWholeWord := by
  refine ⟨fun i => ?roundTrip, fun w i => ?converse, fun w => ?table⟩
  case roundTrip => exact decode_eq_ok_iff_eq_encode.mpr rfl
  case converse => exact decode_eq_ok_iff_eq_encode.mp
  case table =>
    have matchesWord (i : Instr) : decode w = .ok i ↔ w = encode i := decode_eq_ok_iff_eq_encode
    exact ⟨matchesWord .nop, matchesWord .frev, matchesWord .brev, matchesWord .baddr, matchesWord .tpose,
      matchesWord .rotblk, matchesWord .cycle4, matchesWord .rotmat⟩

end Sys2Proof
end

section
/-! The reversals as flips of the bit index, the laws that every such flip has (R60 to R63), and what a command does that
only writes `RESULT` (R64, R65). -/

namespace Sys2Proof.Machine

/-! ### Flips of the bit index -/

/-- `f` permutes the bits of a word by flipping the bits of `k` in every bit index: one swap stage, or several (R60). -/
structure FlipsBits (k : Nat) (f : Word → Word) : Prop where
  lt : k < 64
  getLsbD (x : Word) {b : Nat} (hb : b < 64) : (f x).getLsbD b = x.getLsbD (b ^^^ k)

section
variable {k l : Nat} {f g : Word → Word}

theorem FlipsBits.xor_lt (hf : FlipsBits k f) {b : Nat} (hb : b < 64) : b ^^^ k < 64 :=
  Nat.xor_lt_two_pow (n := 6) hb hf.lt

/-- A flip is determined by the index bits it flips. -/
theorem FlipsBits.eq (hf : FlipsBits k f) (hg : FlipsBits k g) (x : Word) : f x = g x :=
  BitVec.eq_of_getLsbD_eq fun _ hb => (hf.getLsbD x hb).trans (hg.getLsbD x hb).symm

theorem FlipsBits.id : FlipsBits 0 fun x => x := ⟨by decide, fun _ _ _ => by rw [Nat.xor_zero]⟩

theorem FlipsBits.comp (hf : FlipsBits k f) (hg : FlipsBits l g) : FlipsBits (k ^^^ l) fun x => f (g x) where
  lt := hg.xor_lt hf.lt
  getLsbD x b hb := by rw [hf.getLsbD _ hb, hg.getLsbD _ (hf.xor_lt hb), Nat.xor_assoc]

theorem FlipsBits.comm (hf : FlipsBits k f) (hg : FlipsBits l g) (x : Word) : f (g x) = g (f x) :=
  (hf.comp hg).eq (Nat.xor_comm l k ▸ hg.comp hf) x

theorem FlipsBits.involutive (hf : FlipsBits k f) (x : Word) : f (f x) = x :=
  FlipsBits.eq (Nat.xor_self k ▸ hf.comp hf) .id x

/-- A flip commutes with every operation that works on each bit alone. -/
theorem FlipsBits.map_bitwise (hf : FlipsBits k f) {op : Word → Word → Word} {bit : Bool → Bool → Bool}
    (hop : ∀ x y b, b < 64 → (op x y).getLsbD b = bit (x.getLsbD b) (y.getLsbD b)) (x y : Word) :
    f (op x y) = op (f x) (f y) := by
  refine BitVec.eq_of_getLsbD_eq fun b hb => ?_
  rw [hf.getLsbD _ hb, hop _ _ _ (hf.xor_lt hb), hop _ _ _ hb, hf.getLsbD _ hb, hf.getLsbD _ hb]

theorem FlipsBits.map_not (hf : FlipsBits k f) (x : Word) : f (~~~x) = ~~~f x :=
  hf.map_bitwise (op := fun x _ => ~~~x) (bit := fun p _ => !p) (fun x _ b hb => by simp [hb]) x x

/-- The four operations of R63. -/
theorem FlipsBits.map_operations (hf : FlipsBits k f) (x y : Word) :
    f (x &&& y) = f x &&& f y ∧ f (x ||| y) = f x ||| f y ∧ f (x ^^^ y) = f x ^^^ f y ∧ f (~~~x) = ~~~f x :=
  ⟨hf.map_bitwise (fun _ _ _ _ => BitVec.getLsbD_and) x y, hf.map_bitwise (fun _ _ _ _ => BitVec.getLsbD_or) x y,
    hf.map_bitwise (fun _ _ _ _ => BitVec.getLsbD_xor) x y, hf.map_not x⟩

theorem FlipsBits.map_zero (hf : FlipsBits k f) : f 0 = 0 :=
  BitVec.eq_of_getLsbD_eq fun b hb => (hf.getLsbD 0 hb).trans (by simp)

theorem FlipsBits.map_ones (hf : FlipsBits k f) : f (~~~0) = ~~~0 := by rw [hf.map_not, hf.map_zero]

end

/-! ### The swap stages (R60, R61) -/

theorem flipsBits_swapGroups {j : Nat} {m : Word} (hm : IsMask j m) : FlipsBits j (swapGroups j m) where
  lt := by
    obtain ⟨-, -, -, hlt, -, -⟩ := (hm 0).1 (Nat.zero_and j)
    rwa [Fin.val_zero, Nat.zero_xor] at hlt
  getLsbD y _ hb := getLsbD_swapGroups hm y hb

/-- The group widths of R60, each with its mask. -/
def swapStages : List (Nat × Word) :=
  [(1, 0x5555555555555555), (2, 0x3333333333333333), (4, 0x0F0F0F0F0F0F0F0F), (8, 0x00FF00FF00FF00FF),
    (16, 0x0000FFFF0000FFFF), (32, 0x00000000FFFFFFFF)]

theorem isMask_of_mem_swapStages : ∀ p ∈ swapStages, IsMask p.1 p.2 :=
  List.forall_mem_cons.mpr ⟨isMask_1, List.forall_mem_cons.mpr ⟨isMask_2, List.forall_mem_cons.mpr ⟨isMask_4,
    List.forall_mem_cons.mpr ⟨isMask_8, List.forall_mem_cons.mpr ⟨isMask_16, List.forall_mem_singleton.mpr isMask_32⟩⟩⟩⟩⟩

theorem foldl_swapStages (x : Word) : swapStages.foldl (fun y p => swapGroups p.1 p.2 y) x = fullBitReverse x := rfl

/-- The stages commute, so their order does not matter (R60). -/
theorem foldl_perm_swapStages {stages : List (Nat × Word)} (hperm : stages.Perm swapStages) (x : Word) :
    stages.foldl (fun y p => swapGroups p.1 p.2 y) x = fullBitReverse x := by
  have flips (p) (hp : p ∈ stages) : FlipsBits p.1 (swapGroups p.1 p.2) :=
    flipsBits_swapGroups (isMask_of_mem_swapStages p (hperm.mem_iff.mp hp))
  rw [← foldl_swapStages]
  exact hperm.foldl_eq' (fun p hp q hq y => (flips q hq).comm (flips p hp) y) x

/-! ### The two reversals -/

theorem flipsBits_byteLocalBitReverse : FlipsBits 7 byteLocalBitReverse :=
  (flipsBits_swapGroups isMask_4).comp ((flipsBits_swapGroups isMask_2).comp (flipsBits_swapGroups isMask_1))

theorem flipsBits_fullBitReverse : FlipsBits 63 fullBitReverse :=
  (flipsBits_swapGroups isMask_32).comp ((flipsBits_swapGroups isMask_16).comp
    ((flipsBits_swapGroups isMask_8).comp flipsBits_byteLocalBitReverse))

/-- One reversal after the other flips the byte number and keeps the bit number (R62). -/
theorem flipsBits_preReverse : FlipsBits 56 preReverse := flipsBits_byteLocalBitReverse.comp flipsBits_fullBitReverse

theorem getLsbD_fullBitReverse (x : Word) {b : Nat} (hb : b < 64) :
    (fullBitReverse x).getLsbD b = x.getLsbD (63 - b) := by
  have hmirror : ∀ b < 64, b ^^^ 63 = 63 - b := by decide
  rw [flipsBits_fullBitReverse.getLsbD x hb, hmirror b hb]

theorem getLsbD_byteLocalBitReverse (x : Word) {g p : Nat} (hg : g < 8) (hp : p < 8) :
    (byteLocalBitReverse x).getLsbD (8 * g + p) = x.getLsbD (8 * g + 7 - p) := by
  have hdiv : (8 * g + p) / 8 = g := by omega
  have hmod : (8 * g + p) % 8 = p := by omega
  rw [flipsBits_byteLocalBitReverse.getLsbD x (by omega), xor_seven_eq, hdiv, hmod]

/-! ### The bytes of a reversed word (R62, R63) -/

theorem byte_index_xor_fifty_six : ∀ g < 8, ∀ p < 8, (8 * g + p) ^^^ 56 = 8 * (7 - g) + p := by decide

theorem byteOf_preReverse (x : Word) {g : Nat} (hg : g < 8) : byteOf (preReverse x) g = byteOf x (7 - g) := by
  refine BitVec.eq_of_getLsbD_eq fun p hp => ?_
  rw [getLsbD_byteOf, getLsbD_byteOf, flipsBits_preReverse.getLsbD x (by omega), byte_index_xor_fifty_six g hg p hp]

theorem byteOf_byteLocalBitReverse_congr {x y : Word} {g : Nat} (hg : g < 8) (h : byteOf x g = byteOf y g) :
    byteOf (byteLocalBitReverse x) g = byteOf (byteLocalBitReverse y) g := by
  have mirrored (z : Word) {p : Nat} (hp : p < 8) :
      (byteOf (byteLocalBitReverse z) g).getLsbD p = (byteOf z g).getLsbD (7 - p) := by
    have hin : 7 - p < 8 := by omega
    have hindex : 8 * g + 7 - p = 8 * g + (7 - p) := by omega
    rw [getLsbD_byteOf, getLsbD_byteOf, getLsbD_byteLocalBitReverse z hg hp, hindex, decide_eq_true hp, decide_eq_true hin]
  exact BitVec.eq_of_getLsbD_eq fun p hp => by rw [mirrored x hp, mirrored y hp, h]

/-! ### A command that puts a word into `RESULT` and completes (R96, R97) -/

theorem exec_result_then_complete {i : Instr} {s : State} {y : Word}
    (hcheck : exec i s = .next (raise .none { s with resultY := y })) :
    exec i s = .next { s with resultY := y, fsm := .complete .none } ∧
    exec i { s with resultY := y, fsm := .complete .none } =
      .next { s with resultY := y, busy := false, done := true, errcode := 0, fsm := .idle } :=
  ⟨hcheck, exec_complete (s := raise .none { s with resultY := y }) rfl i⟩

end Sys2Proof.Machine
end

section
/-! The statements about the two reversals of 40_bit_reversal.md. -/

namespace Sys2Proof.Machine

/-- Settles O12: each stage flips one bit of the index, so all six flip the whole index, in any order (R60). -/
theorem fullBitReverseMirrorsWord : Obligations.FullBitReverseMirrorsWord := by
  refine fun x => ⟨fun b hb => ?mirror, fun p hp b hb => ?stage, fun stages hperm => ?anyOrder⟩
  case mirror => exact getLsbD_fullBitReverse x hb
  case stage => exact getLsbD_swapGroups (isMask_of_mem_swapStages p hp) x hb
  case anyOrder => exact foldl_perm_swapStages hperm x

/-- Settles O13: the first three stages flip the bit number inside the byte (R61). -/
theorem byteLocalReverseMirrorsBytes : Obligations.ByteLocalReverseMirrorsBytes := by
  refine fun x => ⟨fun g hg p hp => ?mirror, fun b hb => ?flip, ?stages⟩
  case mirror => exact getLsbD_byteLocalBitReverse x hg hp
  case flip => exact flipsBits_byteLocalBitReverse.getLsbD x hb
  case stages => rfl

/-- Settles O14: `BLR(FBR(x))` is the pre-reversal `preReverse` of the block rotator (R62). -/
theorem preReversalReversesBytes : Obligations.PreReversalReversesBytes :=
  fun x _ hg => byteOf_preReverse x hg

/-- Settles O15: but for the two facts about bytes, the laws are those of every flip of the bit index (R63). -/
theorem reversalLaws : Obligations.ReversalLaws := by
  intro x y
  have hfull := flipsBits_fullBitReverse
  have hlocal := flipsBits_byteLocalBitReverse
  refine ⟨hfull.involutive x, hlocal.involutive x, ?ownByte, hfull.comm hlocal x, ?byteReversal, hfull.map_operations x y,
    hlocal.map_operations x y, hfull.map_zero, hfull.map_ones, hlocal.map_zero, hlocal.map_ones⟩
  case ownByte => exact fun g hg => byteOf_byteLocalBitReverse_congr hg
  case byteReversal =>
    intro g hg
    rw [hfull.comm hlocal x]
    exact byteOf_preReverse x hg

/-- Settles O27: R64, with the full reversal of `OPERAND` as the word. -/
theorem frevReversesOperand : Obligations.FrevReversesOperand :=
  ⟨rfl, fun s hcheck => ⟨fullBitReverse s.operandX, fun _ hb => getLsbD_fullBitReverse s.operandX hb,
    exec_result_then_complete (exec_frev_check hcheck)⟩⟩

/-- Settles O28: R65, with the byte-local reversal of `OPERAND` as the word. -/
theorem brevReversesOperandBytes : Obligations.BrevReversesOperandBytes :=
  ⟨rfl, fun s hcheck => ⟨byteLocalBitReverse s.operandX,
    fun _ hg _ hp => getLsbD_byteLocalBitReverse s.operandX hg hp, exec_result_then_complete (exec_brev_check hcheck)⟩⟩

end Sys2Proof.Machine
end

section
/-! What the butterfly network and the three passes of the block rotation do to the row index and the bit index of every
bit of the block (R67 to R69). -/

namespace Sys2Proof.Machine

/-! ### Where the row index and the bit index agree -/

/-- The index bits in which a row index and a bit index agree. -/
def agreeing (r b : Nat) : Nat := 63 ^^^ (r ^^^ b)

theorem agreeing_comm (r b : Nat) : agreeing r b = agreeing b r := by rw [agreeing, agreeing, Nat.xor_comm r b]

theorem agreeing_lt {r b : Nat} (hr : r < 64) (hb : b < 64) : agreeing r b < 64 :=
  Nat.xor_lt_two_pow (n := 6) (by decide) (Nat.xor_lt_two_pow hr hb)

/-- Flipping the same bits of both indices keeps where they agree. -/
theorem agreeing_xor_xor (r b k : Nat) : agreeing (r ^^^ k) (b ^^^ k) = agreeing r b := by
  rw [agreeing, agreeing, Nat.xor_right_comm r k, ← Nat.xor_assoc r b k, Nat.xor_xor_cancel_right]

/-- Flipping every bit of an index that agrees with the other index gives the other, mirrored. -/
theorem xor_agreeing (r b : Nat) : r ^^^ agreeing r b = b ^^^ 63 := by
  rw [agreeing, Nat.xor_left_comm, Nat.xor_xor_cancel_left, Nat.xor_comm]

theorem agreeing_and_two_pow {i : Nat} (hi : i < 6) (r b : Nat) :
    agreeing r b &&& 2 ^ i = if (r &&& 2 ^ i = 0 ↔ b &&& 2 ^ i = 0) then 2 ^ i else 0 := by
  have hones : ∀ i < 6, Nat.testBit 63 i = true := by decide
  rw [Nat.and_two_pow, Nat.and_two_pow, Nat.and_two_pow, agreeing, Nat.testBit_xor, Nat.testBit_xor,
    hones i hi]
  cases r.testBit i <;> cases b.testBit i <;> simp

/-! ### Flips of the agreeing bits -/

/-- `f` permutes the bits of the block by flipping, in the row index and in the bit index alike, those bits of `k` in which
the two agree: one width of the butterfly network, or several (R67, R68). -/
structure FlipsAgreeing (k : Nat) (f : BlockRegs → BlockRegs) : Prop where
  lt : k < 64
  regBit (brf : BlockRegs) {r b : Nat} (hr : r < 64) (hb : b < 64) :
    regBit (f brf) r b = regBit brf (r ^^^ (agreeing r b &&& k)) (b ^^^ (agreeing r b &&& k))

/-- A flip leaves where the indices agree as it was, so two flips in a row are one. -/
theorem FlipsAgreeing.comp {k l : Nat} {f g : BlockRegs → BlockRegs} (hf : FlipsAgreeing k f) (hg : FlipsAgreeing l g) :
    FlipsAgreeing (k ^^^ l) fun brf => f (g brf) where
  lt := Nat.xor_lt_two_pow (n := 6) hf.lt hg.lt
  regBit brf r b hr hb := by
    have hand : agreeing r b &&& k < 64 := Nat.lt_of_le_of_lt Nat.and_le_right hf.lt
    rw [hf.regBit _ hr hb, hg.regBit _ (Nat.xor_lt_two_pow (n := 6) hr hand) (Nat.xor_lt_two_pow (n := 6) hb hand),
      agreeing_xor_xor, Nat.xor_assoc, Nat.xor_assoc, ← Nat.and_xor_distrib_left]

theorem flipsAgreeing_exchangeFrom {j : Nat} (hj : j = 32 ∨ j = 16 ∨ j = 8 ∨ j = 4 ∨ j = 2 ∨ j = 1) {m : Word}
    (hm : IsMask j m) : FlipsAgreeing j (exchangeFrom j m 32 0) where
  lt := by omega
  regBit brf r b hr hb := by
    obtain ⟨i, hi, hpow⟩ : ∃ i < 6, j = 2 ^ i := by
      rcases hj with rfl | rfl | rfl | rfl | rfl | rfl
      exacts [⟨5, by decide⟩, ⟨4, by decide⟩, ⟨3, by decide⟩, ⟨2, by decide⟩, ⟨1, by decide⟩, ⟨0, by decide⟩]
    have hflip : agreeing r b &&& j = if (r &&& j = 0 ↔ b &&& j = 0) then j else 0 := hpow ▸ agreeing_and_two_pow hi r b
    rw [regBit_exchangeFrom hj hm brf hr hb, hflip]
    split
    · rfl
    · rw [Nat.xor_zero, Nat.xor_zero]

/-- The six widths together flip every bit in which the indices agree (R68). -/
theorem flipsAgreeing_butterflyTranspose : FlipsAgreeing 63 butterflyTranspose := by
  have h1 := flipsAgreeing_exchangeFrom (by decide) isMask_1
  have h2 := flipsAgreeing_exchangeFrom (by decide) isMask_2
  have h4 := flipsAgreeing_exchangeFrom (by decide) isMask_4
  have h8 := flipsAgreeing_exchangeFrom (by decide) isMask_8
  have h16 := flipsAgreeing_exchangeFrom (by decide) isMask_16
  have h32 := flipsAgreeing_exchangeFrom (by decide) isMask_32
  rw [funext butterflyTranspose_eq]
  exact h1.comp (h2.comp (h4.comp (h8.comp (h16.comp h32))))

/-! ### The whole network, and a pass over the words -/

/-- The network transposes about the anti-diagonal: of an index below 64, `^ 63` is the mirror image (R68). -/
theorem regBit_butterflyTranspose (brf : BlockRegs) {r b : Nat} (hr : r < 64) (hb : b < 64) :
    regBit (butterflyTranspose brf) r b = regBit brf (b ^^^ 63) (r ^^^ 63) := by
  have hall : agreeing r b &&& 63 = agreeing r b :=
    Nat.and_two_pow_sub_one_of_lt_two_pow (n := 6) (agreeing_lt hr hb)
  rw [flipsAgreeing_butterflyTranspose.regBit brf hr hb, hall, xor_agreeing, agreeing_comm, xor_agreeing]

/-- A flip of the bit index, made on every word, leaves each bit in its row (R69). -/
theorem FlipsBits.regBit_map {k : Nat} {f : Word → Word} (hf : FlipsBits k f) (brf : BlockRegs) {r b : Nat} (hr : r < 64)
    (hb : b < 64) : regBit (brf.map f) r b = regBit brf r (b ^^^ k) := by
  simpa [regBit, hr] using hf.getLsbD brf[r] hb

theorem flipsBits_postReverse : FlipsBits 7 postReverse := flipsBits_byteLocalBitReverse

/-- The rotation, pass by pass from the last: bit `b` of word `r` comes from bit `b ^ 7` of its word, that one from its
mirror image in the anti-diagonal, that one from the same bit of the reversed byte (R69). -/
theorem regBit_rotateBlockWords (brf : BlockRegs) {r b : Nat} (hr : r < 64) (hb : b < 64) :
    regBit (rotateBlockWords brf) r b = regBit brf (b ^^^ 56) (r ^^^ 7) := by
  have hpost : b ^^^ 7 < 64 := flipsBits_postReverse.xor_lt hb
  have hmirror {c : Nat} (hc : c < 64) : c ^^^ 63 < 64 := flipsBits_fullBitReverse.xor_lt hc
  calc regBit (rotateBlockWords brf) r b
      = regBit (butterflyTranspose (brf.map preReverse)) r (b ^^^ 7) := flipsBits_postReverse.regBit_map _ hr hb
    _ = regBit (brf.map preReverse) (b ^^^ 7 ^^^ 63) (r ^^^ 63) := regBit_butterflyTranspose _ hr hpost
    _ = regBit brf (b ^^^ 7 ^^^ 63) (r ^^^ 63 ^^^ 56) := flipsBits_preReverse.regBit_map _ (hmirror hpost) (hmirror hr)
    _ = regBit brf (b ^^^ 56) (r ^^^ 7) := by simp only [Nat.xor_assoc, Nat.reduceXor]

end Sys2Proof.Machine
end

section
/-! The statement about the block rotation of 41_block_rotator.md. -/

namespace Sys2Proof.Machine

/-- Settles O17: the passes are the model's own, and their index maps compose to `(r, b) ↦ (b ^ 56, r ^ 7)` (R69). -/
theorem rotateBlockWordsMapsBits : Obligations.RotateBlockWordsMapsBits :=
  fun brf => ⟨rfl, fun _ hr _ hb => regBit_rotateBlockWords brf hr hb⟩

end Sys2Proof.Machine
end

section
/-! The block address indexer: what an offset comes to, and where the bits of a block stand in the matrix (R75, R76). -/

namespace Sys2Proof.Machine

theorem State.blockOffset_eq (s : State) (i j : Nat) :
    s.blockOffset i j = s.trunc (i * 64 * s.strideS.toNat + j * 8) := rfl

/-- A 64-bit register has room for the offset of every block. -/
theorem State.toNat_ofNat_blockOffset {s : State} (haw : s.aw ≤ 64) (i j : Nat) :
    (BitVec.ofNat 64 (s.blockOffset i j)).toNat = s.trunc (i * 64 * s.strideS.toNat + j * 8) := by
  rw [State.blockOffset_eq]
  exact State.toNat_truncWord haw _

/-- The byte `g` places into row `r` of block `(i, j)` is that many places past byte `8j` of matrix row `64i + r`. -/
theorem State.trunc_blockAddr_row_add (s : State) (i j r g : Nat) :
    s.trunc (s.blockAddr i j + r * s.strideS.toNat + g) =
      s.trunc (s.baseAddr.toNat + (64 * i + r) * s.strideS.toNat + (8 * j + g)) := by
  have hexact : s.baseAddr.toNat + (i * 64 * s.strideS.toNat + j * 8) + (r * s.strideS.toNat + g) =
      s.baseAddr.toNat + (64 * i + r) * s.strideS.toNat + (8 * j + g) := by ring
  rw [State.blockAddr_eq, Nat.add_assoc, State.trunc_trunc_add, hexact]

/-- A block starts at a byte boundary of its matrix rows, so a column keeps its place in the byte. -/
theorem State.blockBit_blockAddr (s : State) (i j r c : Nat) :
    s.blockBit (s.blockAddr i j) r c = s.matrixBit (64 * i + r) (64 * j + c) := by
  have hbyte : (64 * j + c) / 8 = 8 * j + c / 8 := by omega
  have hbit : (64 * j + c) % 8 = c % 8 := by omega
  rw [State.blockBit, State.matrixBit, State.trunc_blockAddr_row_add, hbyte, hbit]

end Sys2Proof.Machine
end

section
/-! The statements about the block address indexer of 42_block_addressing.md. -/

namespace Sys2Proof.Machine

/-- Settles O21: the two addresses are the model's own formulas, and the block's bits are the matrix's by
`blockBit_blockAddr` (R76). -/
theorem blocksTileMatrix : Obligations.BlocksTileMatrix := by
  intro s i j r c _
  refine ⟨?topLeft, ?bits, ?rowStart⟩
  case topLeft => rfl
  case bits => exact s.blockBit_blockAddr i j r c
  case rowStart => rfl

/-- Settles O29: R77, with the truncated offset as the word; AW is at most 64, so the register holds it whole. -/
theorem baddrComputesOffset : Obligations.BaddrComputesOffset :=
  ⟨rfl, fun s hcheck haw => ⟨BitVec.ofNat 64 (s.blockOffset s.biI.toNat s.bjJ.toNat),
    State.toNat_ofNat_blockOffset haw _ _, exec_result_then_complete (exec_baddr_check hcheck)⟩⟩

end Sys2Proof.Machine
end

section
/-! The four cells of a 4-cycle (R80), and the grid cells that the range of phase 1 reaches at each place of a cycle (R85). -/

namespace Sys2Proof.Machine

/-- The place after a cell in the order of R80. -/
def CycleCell.next : CycleCell → CycleCell
  | .cellA => .cellB
  | .cellB => .cellC
  | .cellC => .cellD
  | .cellD => .cellA

theorem CycleCell.next_next_next_next (p : CycleCell) : p.next.next.next.next = p := by
  cases p <;> rfl

theorem CycleCell.next_injective : Function.Injective CycleCell.next :=
  Function.LeftInverse.injective (g := fun p : CycleCell => p.next.next.next) CycleCell.next_next_next_next

/-- The rotation `(p, q) ↦ (q, n - 1 - p)` of the grid sends each cell to the next. -/
theorem cycleCoords_next {n i j : Nat} (hi : i < n) (hj : j < n) (p : CycleCell) :
    cycleCoords n i j p.next = ((cycleCoords n i j p).2, n - 1 - (cycleCoords n i j p).1) := by
  cases p with
  | cellA | cellB => rfl
  | cellC | cellD =>
    refine Prod.ext rfl ?_
    simp only [cycleCoords, CycleCell.next]
    omega

theorem cycleCoords_of_centre {n i j : Nat} (hcentre : 2 * i + 1 = n ∧ 2 * j + 1 = n) (p : CycleCell) :
    cycleCoords n i j p = (i, j) := by
  cases p <;> simp only [cycleCoords, Prod.mk.injEq] <;> omega

theorem eq_cellA_of_cycleCoords_eq {n i j : Nat} (hi : i < n) (hj : j < n)
    (hcentre : ¬(2 * i + 1 = n ∧ 2 * j + 1 = n)) {q : CycleCell}
    (h : cycleCoords n i j .cellA = cycleCoords n i j q) : .cellA = q := by
  cases q with
  | cellA => rfl
  | cellB | cellC | cellD =>
    simp only [cycleCoords, Prod.mk.injEq] at h
    omega

/-- Two equal cells stay equal when both are rotated, until the first is A. -/
theorem cycleCoords_injective {n i j : Nat} (hi : i < n) (hj : j < n)
    (hcentre : ¬(2 * i + 1 = n ∧ 2 * j + 1 = n)) : Function.Injective (cycleCoords n i j) := by
  have hback : ∀ p : CycleCell,
      (∀ q, cycleCoords n i j p.next = cycleCoords n i j q → p.next = q) →
      ∀ q, cycleCoords n i j p = cycleCoords n i j q → p = q := fun p hnext q h =>
    CycleCell.next_injective (hnext q.next (by rw [cycleCoords_next hi hj, cycleCoords_next hi hj, h]))
  have hA := fun q => eq_cellA_of_cycleCoords_eq hi hj hcentre (q := q)
  have hD := hback .cellD hA
  have hC := hback .cellC hD
  have hB := hback .cellB hC
  intro p q h
  cases p with
  | cellA => exact hA q h
  | cellB => exact hB q h
  | cellC => exact hC q h
  | cellD => exact hD q h

theorem cycleCoords_inj_coords {n i j k l : Nat} (hi : i < n) (hj : j < n) (hk : k < n) (hl : l < n) {p : CycleCell}
    (h : cycleCoords n i j p = cycleCoords n k l p) : i = k ∧ j = l := by
  cases p <;> simp only [cycleCoords, Prod.mk.injEq] at h <;> omega

/-- The rectangle of grid cells that stand at a place of the 4-cycle of some cell in the range of phase 1 (R85). -/
def InPhaseOneImage (n i j : Nat) : CycleCell → Prop
  | .cellA => i < (n + 1) / 2 ∧ j < n / 2
  | .cellB => i < n / 2 ∧ n / 2 ≤ j ∧ j < n
  | .cellC => (n / 2 ≤ i ∧ i < n) ∧ (n + 1) / 2 ≤ j ∧ j < n
  | .cellD => ((n + 1) / 2 ≤ i ∧ i < n) ∧ j < (n + 1) / 2

theorem inPhaseOneImage_cycleCoords {n ci cj : Nat} (hci : ci < (n + 1) / 2) (hcj : cj < n / 2) (p : CycleCell) :
    InPhaseOneImage n (cycleCoords n ci cj p).1 (cycleCoords n ci cj p).2 p := by
  cases p <;> simp only [InPhaseOneImage, cycleCoords] <;> omega

theorem exists_cycleCoords_iff_inPhaseOneImage {n i j : Nat} {p : CycleCell} :
    (∃ ci < (n + 1) / 2, ∃ cj < n / 2, cycleCoords n ci cj p = (i, j)) ↔ InPhaseOneImage n i j p := by
  constructor
  · rintro ⟨ci, hci, cj, hcj, h⟩
    simpa only [h] using inPhaseOneImage_cycleCoords hci hcj p
  · intro h
    cases p <;> simp only [InPhaseOneImage] at h
    case cellA => exact ⟨i, h.1, j, h.2, rfl⟩
    case cellB => exact ⟨n - 1 - j, by omega, i, h.1, Prod.ext rfl (by simp only [cycleCoords]; omega)⟩
    case cellC =>
      exact ⟨n - 1 - i, by omega, n - 1 - j, by omega, by simp only [cycleCoords, Prod.mk.injEq]; omega⟩
    case cellD => exact ⟨j, h.2, n - 1 - i, by omega, Prod.ext (by simp only [cycleCoords]; omega) rfl⟩

/-- The one rectangle that holds a grid cell other than the centre. -/
def phaseOnePlace (n i j : Nat) : CycleCell :=
  if i < (n + 1) / 2 ∧ j < n / 2 then .cellA
  else if i < n / 2 then .cellB
  else if (n + 1) / 2 ≤ j then .cellC
  else .cellD

theorem inPhaseOneImage_phaseOnePlace {n i j : Nat} (hi : i < n) (hj : j < n)
    (hcentre : ¬(2 * i + 1 = n ∧ 2 * j + 1 = n)) : InPhaseOneImage n i j (phaseOnePlace n i j) := by
  rw [phaseOnePlace]
  split_ifs with hA hB hC
  · exact hA
  all_goals simp only [InPhaseOneImage]; omega

theorem InPhaseOneImage.in_grid_off_centre {n i j : Nat} {p : CycleCell} (h : InPhaseOneImage n i j p) :
    i < n ∧ j < n ∧ ¬(2 * i + 1 = n ∧ 2 * j + 1 = n) := by
  cases p <;> simp only [InPhaseOneImage] at h <;> omega

theorem InPhaseOneImage.phaseOnePlace_eq {n i j : Nat} {p : CycleCell} (h : InPhaseOneImage n i j p) :
    phaseOnePlace n i j = p := by
  rw [phaseOnePlace]
  cases p <;> simp only [InPhaseOneImage] at h
  case cellA => rw [if_pos h]
  case cellB => rw [if_neg (by omega), if_pos h.1]
  case cellC => rw [if_neg (by omega), if_neg (by omega), if_pos h.2.1]
  case cellD => rw [if_neg (by omega), if_neg (by omega), if_neg (by omega)]

theorem phaseOneCycle_cell_unique {n ci cj di dj : Nat} (hci : ci < (n + 1) / 2) (hcj : cj < n / 2)
    (hdi : di < (n + 1) / 2) (hdj : dj < n / 2) {p q : CycleCell}
    (h : cycleCoords n ci cj p = cycleCoords n di dj q) : ci = di ∧ cj = dj ∧ p = q := by
  have hp := (inPhaseOneImage_cycleCoords hci hcj p).phaseOnePlace_eq
  have hq := (inPhaseOneImage_cycleCoords hdi hdj q).phaseOnePlace_eq
  obtain rfl : p = q := by rw [← hp, ← hq, h]
  obtain ⟨hi, hj⟩ := cycleCoords_inj_coords (n := n) (by omega) (by omega) (by omega) (by omega) h
  exact ⟨hi, hj, rfl⟩

/-- Four cells a cycle, and the centre of an odd grid. -/
theorem four_mul_phaseOneRange_add_mod_two (n : Nat) : 4 * ((n + 1) / 2 * (n / 2)) + n % 2 = n * n := by
  obtain ⟨m, rfl | rfl⟩ := Nat.even_or_odd' n
  · rw [show (2 * m + 1) / 2 = m by omega, show 2 * m / 2 = m by omega, Nat.mul_mod_right]
    ring
  · rw [show (2 * m + 1 + 1) / 2 = m + 1 by omega, show (2 * m + 1) / 2 = m by omega,
      show (2 * m + 1) % 2 = 1 by omega]
    ring

end Sys2Proof.Machine
end

section
/-! The statements about the grid of 43_matrix_driver.md. -/

namespace Sys2Proof.Machine

/-- Settles O23: the four rectangles `InPhaseOneImage` are the range's images, and they tile the grid without its centre. -/
theorem phaseOneCoversGrid : Obligations.PhaseOneCoversGrid := by
  intro n
  refine ⟨?covers, ?unique, ?inside, ?rectangles, four_mul_phaseOneRange_add_mod_two n⟩
  case covers =>
    intro i hi j hj hcentre
    obtain ⟨ci, hci, cj, hcj, h⟩ :=
      exists_cycleCoords_iff_inPhaseOneImage.mpr (inPhaseOneImage_phaseOnePlace hi hj hcentre)
    exact ⟨ci, hci, cj, hcj, phaseOnePlace n i j, h⟩
  case unique =>
    exact fun ci hci cj hcj di hdi dj hdj p q => phaseOneCycle_cell_unique hci hcj hdi hdj
  case inside =>
    intro ci hci cj hcj p i j h
    exact (exists_cycleCoords_iff_inPhaseOneImage.mp ⟨ci, hci, cj, hcj, h⟩).in_grid_off_centre
  case rectangles =>
    rintro m rfl i j
    simp only [exists_cycleCoords_iff_inPhaseOneImage, InPhaseOneImage]
    omega

/-- Settles O22: the cells are one orbit of the rotation, so they are distinct as soon as A differs from the others. -/
theorem cycleCellsAreCentreOrDistinct : Obligations.CycleCellsAreCentreOrDistinct := by
  intro n i j hi hj
  refine ⟨⟨rfl, rfl, rfl, rfl⟩, ?rotation, ?centre, ?distinct⟩
  case rotation =>
    intro p q h
    have hnext : q = p.next := by rcases h with h | h | h | h <;> cases h <;> rfl
    rw [hnext]
    exact cycleCoords_next hi hj p
  case centre =>
    intro hcentre p q
    rw [cycleCoords_of_centre hcentre, cycleCoords_of_centre hcentre]
  case distinct => exact fun hcentre p q h => cycleCoords_injective hi hj hcentre h

end Sys2Proof.Machine
end

section
/-! The statements about the COMPLETE step and `NOP` of 44_control.md. -/

namespace Sys2Proof.Machine

/-- Settles O25: every command and every illegal word ends by the one shared operation `complete` (R97), which gives
`ERRCODE` its value of R102. -/
theorem completeStepEndsCommand : Obligations.CompleteStepEndsCommand := by
  intro s code hcode
  refine ⟨fun i => ?command, fun hnil => ?coreMoves, ?errcode⟩
  case command => exact exec_complete hcode i
  case coreMoves =>
    rw [step_of_schedule_nil hnil, coreStep_complete hcode]
    rfl
  case errcode => cases code <;> rfl

/-- Settles O26: the check step only raises `NONE` (R92), and the state it leads to is a COMPLETE state (R97). -/
theorem nopOnlyCompletes : Obligations.NopOnlyCompletes := by
  refine ⟨rfl, fun s hcheck => ⟨?checkStep, ?completeStep⟩⟩
  case checkStep => exact exec_nop_check hcheck
  case completeStep => exact exec_complete (s := raise .none s) rfl .nop

end Sys2Proof.Machine
end

section
/-! Where a command ends early: a word the decoder refuses at its check step (R56, R104), and an access the platform refuses
(R108). -/

namespace Sys2Proof

/-! ### Illegal words (R56) -/

theorem toNat_encode_lt (i : Instr) : (encode i).toNat < 8 := by cases i <;> decide

/-- The encoder writes words below 8 only, so the decoder refuses every other word. -/
theorem exists_decode_eq_error {w : Word} (h : 8 ≤ w.toNat) : ∃ e, decode w = .error e := by
  cases hd : decode w with
  | error e => exact ⟨e, rfl⟩
  | ok i =>
    obtain rfl := decode_eq_ok_iff_eq_encode.mp hd
    exact absurd (toNat_encode_lt i) (Nat.not_lt.mpr h)

end Sys2Proof

namespace Sys2Proof.Machine

variable {s : State} {i : Instr}

theorem coreStep_check_of_illegal (hcheck : s.fsm = .check) {e : DecodeError} (he : decode s.op = .error e) :
    coreStep s = .next (raise .illegalCommand s) := by
  rw [coreStep_of_illegal (by simp [hcheck]) he]
  simp [illegalStep, hcheck]

/-- A check step that only raises a code leads, with the COMPLETE step behind it, to the end of the command (R97, R111). -/
theorem stepsTo_two_of_raise {code : ErrCode} (hnil : s.schedule = []) (h : coreStep s = .next (raise code s)) :
    stepsTo 2 s (s.ended code) :=
  stepsTo_succ ((step_of_schedule_nil hnil).trans h)
    (stepsTo_one (s := raise code s) hnil (coreStep_complete (raise_fsm code s)))

/-! ### Refused accesses (R108) -/

theorem loadStep_of_refused (h : s.memOk .read s.currentRowAddr = false) (pass : Word → Word) :
    loadStep pass s = busError s.currentRowAddr s := by
  rcases loadStep_cases pass s with ⟨hok, -⟩ | ⟨-, hrefused⟩
  · exact absurd hok (by simp [h])
  · exact hrefused

theorem storeStep_of_refused (h : s.memOk .write s.currentRowAddr = false) (pass : Word → Word)
    (after : State → State) : storeStep pass after s = busError s.currentRowAddr s := by
  rcases storeStep_cases pass after s with ⟨hok, -⟩ | ⟨-, hrefused⟩
  · exact absurd hok (by simp [h])
  · exact hrefused

theorem cycStep_of_refused {k : Fin 8} (h : s.memOk (cycleAccess k).kind (s.cycAddr k) = false)
    (after : State → State) : cycStep after k s = busError (s.cycAddr k) s := by
  rcases cycStep_cases after k s with ⟨hkind, hok, -⟩ | ⟨hkind, hok, -⟩ | ⟨-, hrefused⟩
  · exact absurd hok (by simp [← hkind, h])
  · exact absurd hok (by simp [← hkind, h])
  · exact hrefused

/-- The commands that work on blocks share the LOAD step; they differ in the pass over the row (R71, R72). -/
theorem exec_load (h : s.fsm = .load) (hi : i = .tpose ∨ i = .rotblk ∨ i = .rotmat) :
    ∃ pass, exec i s = .next (loadStep pass s) := by
  rcases hi with rfl | rfl | rfl
  · exact ⟨_, exec_tpose_load h⟩
  · exact ⟨_, exec_rotblk_load h⟩
  · exact ⟨_, exec_rotmat_load h⟩

theorem exec_store (h : s.fsm = .store) (hi : i = .tpose ∨ i = .rotblk ∨ i = .rotmat) :
    ∃ pass after, exec i s = .next (storeStep pass after s) := by
  rcases hi with rfl | rfl | rfl
  · exact ⟨_, _, exec_tpose_store h⟩
  · exact ⟨_, _, exec_rotblk_store h⟩
  · exact ⟨_, _, exec_rotmat_store h⟩

theorem exec_cyc {k : Fin 8} (h : s.fsm = .cyc k) (hi : i = .cycle4 ∨ i = .rotmat) :
    ∃ after, exec i s = .next (cycStep after k s) := by
  rcases hi with rfl | rfl
  · exact ⟨_, exec_cycle4_cyc h⟩
  · exact ⟨_, exec_rotmat_cyc h⟩

end Sys2Proof.Machine
end

section
/-! The statements about errors of 60_exceptions.md. -/

namespace Sys2Proof.Machine

/-- Settles O38: either field out of range makes the word 8 or above, so the decoder refuses it (R104). -/
theorem illegalWordEndsAtCheck : Obligations.IllegalWordEndsAtCheck := by
  intro s hcheck hnil hillegal
  have hword : 8 ≤ s.op.toNat := by omega
  obtain ⟨e, he⟩ := exists_decode_eq_error hword
  have hraise := coreStep_check_of_illegal hcheck he
  exact ⟨(step_of_schedule_nil hnil).trans hraise, stepsTo_two_of_raise hnil hraise⟩

/-- Settles O40: whichever step refuses the access, `exec` answers the one shared operation `busError` (R108). -/
theorem refusedAccessEndsCommand : Obligations.RefusedAccessEndsCommand := by
  intro s i a hstep
  have hbusError : exec i s = .next (busError a s) := by
    rcases hstep with ⟨hload, hi, rfl, hno⟩ | ⟨hstore, hi, rfl, hno⟩ | ⟨k, hcyc, hi, rfl, hno⟩
    · obtain ⟨pass, hexec⟩ := exec_load hload hi
      rw [hexec, loadStep_of_refused hno]
    · obtain ⟨pass, after, hexec⟩ := exec_store hstore hi
      rw [hexec, storeStep_of_refused hno]
    · obtain ⟨after, hexec⟩ := exec_cyc hcyc hi
      rw [hexec, cycStep_of_refused hno]
  exact ⟨drawnRegs s.draws, Config.freeWord s.draws 64, Config.freeWord s.draws 65, s.draws + 1, hbusError⟩

end Sys2Proof.Machine
end

section
/-! The words that the decoder refuses, by their two fields (R54, R56), and the CSR map read from the offset's side (R15,
R16). -/

namespace Sys2Proof

/-! ### Refused words (R56) -/

theorem toNat_rsvd_splitWord (w : Word) : (splitWord w).rsvd.toNat = w.toNat / 16 := by
  have hlt := w.isLt
  simp only [splitWord, BitVec.extractLsb'_toNat, Nat.shiftRight_eq_div_pow]
  omega

theorem toNat_op_splitWord (w : Word) : (splitWord w).op.toNat = w.toNat % 16 := by
  simp [splitWord, BitVec.extractLsb'_toNat]

theorem rsvdZero_splitWord_iff (w : Word) : (splitWord w).rsvdZero = true ↔ w.toNat / 16 = 0 := by
  rw [CommandWord.rsvdZero_iff, ← toNat_rsvd_splitWord, ← BitVec.toNat_inj]
  rfl

/-- The opcode map leaves out exactly the opcodes from 8 on (R55). -/
theorem decodeOp_eq_none_iff : ∀ op : BitVec 4, decodeOp op = none ↔ 8 ≤ op.toNat := by decide

theorem decode_eq_reservedBits_iff (w : Word) : decode w = .error .reservedBits ↔ w.toNat / 16 ≠ 0 := by
  rw [Ne, ← rsvdZero_splitWord_iff, decode]
  cases (splitWord w).rsvdZero <;> cases decodeOp (splitWord w).op <;> simp

/-- Either the reserved bits are the reason, or the opcode is one that the map leaves out. -/
theorem exists_decode_eq_error_iff (w : Word) :
    (∃ e, decode w = .error e) ↔ w.toNat / 16 ≠ 0 ∨ 8 ≤ w.toNat % 16 := by
  rw [Ne, ← rsvdZero_splitWord_iff, ← toNat_op_splitWord, ← decodeOp_eq_none_iff, decode]
  cases (splitWord w).rsvdZero <;> cases decodeOp (splitWord w).op <;> simp

namespace Machine

/-! ### The offset of a CSR (R16) -/

/-- The map from offsets to CSRs and the map back are inverse to each other. -/
theorem csrAt_eq_some_iff {off : CsrOffset} {c : Csr} : csrAt off = some c ↔ off = offsetOf c := by
  refine ⟨fun h => ?_, fun h => h ▸ csrAt_offsetOf c⟩
  unfold csrAt at h
  split at h <;> cases h
  all_goals exact BitVec.eq_of_toNat_eq ‹off.toNat = _›

@[simp] theorem State.csrRead_offsetOf (s : State) (c : Csr) : s.csrRead (offsetOf c) = s.csrValue c :=
  State.csrRead_of_mapped (csrAt_offsetOf c) s

/-- What a host can read is decided CSR by CSR. -/
theorem State.csrRead_congr {s t : State} (h : ∀ c, t.csrValue c = s.csrValue c) (off : CsrOffset) :
    t.csrRead off = s.csrRead off := by
  cases hoff : csrAt off with
  | none => rw [State.csrRead_of_unmapped hoff, State.csrRead_of_unmapped hoff]
  | some c => rw [State.csrRead_of_mapped hoff, State.csrRead_of_mapped hoff, h]

theorem whenIdle_of_idle {s : State} (hb : s.busy = false) (write : State → State) : whenIdle write s = write s :=
  if_neg (by simp [hb])

/-- A write that only an idle core takes, made to an idle core. -/
theorem step_of_csrWrite_idle {s : State} {c : Csr} {v : Word} {rest : List Event} {write : State → State}
    (h : s.schedule = .csrWrite (offsetOf c) v :: rest) (hidle : s.busy = false)
    (hc : ∀ t, writeCsr c v t = whenIdle write t) : step s = .next (write { s with schedule := rest }) := by
  rw [step_of_csrWrite_offsetOf h, hc, whenIdle_of_idle (s := { s with schedule := rest }) hidle]

/-! ### The bits of `STATUS` (R16) -/

theorem getLsbD_flagAt (f : Bool) {i : Nat} (hi : i < 64) (b : Nat) :
    (flagAt f i).getLsbD b = (f && decide (b = i)) := by
  cases f <;> simp [flagAt, BitVec.getLsbD_twoPow, hi, eq_comm]

theorem State.getLsbD_statusWord (s : State) {b : Nat} (hb : b < 64) :
    s.statusWord.getLsbD b =
      if b = 0 then s.busy
      else if b = 1 then s.done
      else if b = 2 then s.ovr
      else if 8 ≤ b ∧ b < 16 then s.errcode.getLsbD (b - 8)
      else false := by
  have hflag0 := getLsbD_flagAt s.busy (i := 0) (by decide) b
  have hflag1 := getLsbD_flagAt s.done (i := 1) (by decide) b
  have hflag2 := getLsbD_flagAt s.ovr (i := 2) (by decide) b
  have hcode : (s.errcode.setWidth 64 <<< 8).getLsbD b = (decide (8 ≤ b) && s.errcode.getLsbD (b - 8)) := by
    by_cases h8 : 8 ≤ b
    · simp [h8, hb, Nat.not_lt.mpr h8]
    · simp [h8, Nat.lt_of_not_le h8]
  rw [State.statusWord, BitVec.getLsbD_or, BitVec.getLsbD_or, BitVec.getLsbD_or, hflag0, hflag1, hflag2, hcode]
  split_ifs with h0 h1 h2 h8
  · simp [h0]
  · simp [h1]
  · simp [h2]
  · simp [h0, h1, h2, h8.1]
  · have hhigh : 8 ≤ b → s.errcode.getLsbD (b - 8) = false := fun h => BitVec.getLsbD_of_ge _ _ (by omega)
    by_cases hle : 8 ≤ b
    · simp [h0, h1, h2, hhigh hle]
    · simp [h0, h1, h2, hle]

end Machine
end Sys2Proof
end

section
/-! The statements about refused words of 30_encoding.md and about the CSR port of 10_state.md. -/

namespace Sys2Proof.Machine

/-- Settles O2: the decoder asks the two fields, and these are the quotient and the remainder by 16 (R54, R56). -/
theorem illegalWordsAreRefused : Obligations.IllegalWordsAreRefused :=
  fun w => ⟨exists_decode_eq_error_iff w, decode_eq_reservedBits_iff w⟩

/-- Settles O3: the eight words are those of the encoder (R55); the other four fall under the two reasons of R56. -/
theorem tableWordsDecode : Obligations.TableWordsDecode := by
  have decodes (i : Instr) : decode (encode i) = .ok i := decode_eq_ok_iff_eq_encode.mpr rfl
  exact ⟨decodes .nop, decodes .frev, decodes .brev, decodes .baddr, decodes .tpose, decodes .rotblk, decodes .cycle4,
    decodes .rotmat, rfl, rfl, (decode_eq_reservedBits_iff _).mpr (by decide),
    (decode_eq_reservedBits_iff _).mpr (by decide)⟩

/-- Settles O4: the map and its inverse, and the port's rule for an offset outside the map (R15, R16). -/
theorem offsetsFollowCsrMap : Obligations.OffsetsFollowCsrMap :=
  ⟨fun _ _ => csrAt_eq_some_iff, ⟨rfl, rfl, rfl, rfl, rfl, rfl, rfl, rfl, rfl, rfl⟩,
    fun _ v s hoff => ⟨State.csrRead_of_unmapped hoff s, csrWrite_of_unmapped hoff v s⟩⟩

/-- Settles O5: a read of `STATUS` returns the status word, whose parts lie at disjoint places. -/
theorem statusWordLayout : Obligations.StatusWordLayout := by
  intro s b hb
  rw [State.csrRead_offsetOf]
  exact s.getLsbD_statusWord hb

/-- Settles O6: R93 and R28 for `CMD`; the refusal comes at the check step, not at the write (R104). -/
theorem commandWriteIssues : Obligations.CommandWriteIssues := by
  intro s w rest h
  refine ⟨fun hidle => ?issued, fun hbusy => ?dropped, fun e he => ?refused⟩
  case issued => exact step_of_csrWrite_idle (c := .cmd) h hidle fun _ => rfl
  case dropped => exact step_of_csrWrite_busy (c := .cmd) h hbusy (by decide)
  case refused => exact coreStep_check_of_illegal (issue_fsm w s) he

/-- Settles O8: what `writeCsr` stores in each operand CSR of an idle core (R16 to R21). -/
theorem idleWritesLand : Obligations.IdleWritesLand := by
  intro s off v rest h hidle
  have lands (c : Csr) (write : State → State) (hc : ∀ t, writeCsr c v t = whenIdle write t)
      (hoff : off = offsetOf c) : step s = .next (write { s with schedule := rest }) :=
    step_of_csrWrite_idle (hoff ▸ h) hidle hc
  exact ⟨lands .dim _ fun _ => rfl, lands .base _ fun _ => rfl, lands .stride _ fun _ => rfl, lands .bi _ fun _ => rfl,
    lands .bj _ fun _ => rfl, lands .operand _ fun _ => rfl⟩

/-- Settles O9: a read returns `csrValue` of the CSR at the offset, and a 32-bit field keeps its value in 64 bits (R16,
R29). -/
theorem readsReturnRegisters : Obligations.ReadsReturnRegisters := by
  intro s off rest h
  have reads (c : Csr) (hoff : off = offsetOf c) : s.csrRead off = s.csrValue c := by rw [hoff, State.csrRead_offsetOf]
  have widened (f : Field) : (f.setWidth 64).toNat = f.toNat := BitVec.toNat_setWidth_of_le (by decide)
  refine ⟨s.csrRead off, step_of_schedule_cons h, reads .cmd, reads .status, fun hoff => ?dim, reads .base,
    fun hoff => ?stride, fun hoff => ?bi, fun hoff => ?bj, reads .operand, fun hoff hidle => ?result,
    fun hoff hidle => ?faultAddr, fun hoff => State.csrRead_of_unmapped hoff s⟩
  case dim => rw [reads .dim hoff]; exact widened s.dimN
  case stride => rw [reads .stride hoff]; exact widened s.strideS
  case bi => rw [reads .bi hoff]; exact widened s.biI
  case bj => rw [reads .bj hoff]; exact widened s.bjJ
  case result => rw [reads .result hoff]; exact if_neg (by simp [hidle])
  case faultAddr => rw [reads .faultAddr hoff]; exact if_neg (by simp [hidle])

/-- Settles O11: one poll of `wait`, with `BUSY` 1 and with `BUSY` 0 (R58). -/
theorem waitPollsUntilIdle : Obligations.WaitPollsUntilIdle := by
  intro s rest h
  have hpoll : step s = .next (poll rest { s with schedule := rest }) := step_of_schedule_cons h
  have hstatus : { s with schedule := rest }.csrRead (offsetOf .status) = s.statusWord := State.csrRead_offsetOf _ .status
  refine ⟨fun hbusy => ?again, fun hidle => ?finished⟩
  case again => rw [hpoll, poll, hstatus, if_pos hbusy]
  case finished => rw [hpoll, poll, hstatus, if_neg (by simp [hidle])]

end Sys2Proof.Machine
end

section
/-! What the FSM steps of the commands answer, step by step (R96, R98): the successor of a cell of the grid, the check steps
by the check that fails first, the LOAD and STORE steps that `TPOSE`, `ROTBLK` and `ROTMAT` share, and the accesses of a
4-cycle row. -/

namespace Sys2Proof.Machine

variable {s : State}

/-! ### What an update of the internal registers leaves alone -/

/-- The state with its sequencing and data registers (R30, R31) blanked: what a step that moves only these registers
leaves alone. -/
def State.exposed (s : State) : State :=
  { s with
    fsm := .idle, ci := 0, cj := 0, row := 0, ba := 0, ph := .relocation, brf := Vector.replicate 64 0, tmp := 0, dr := 0 }

@[simp] theorem raise_exposed (code : ErrCode) (s : State) : (raise code s).exposed = s.exposed := rfl
@[simp] theorem startBlock_exposed (s : State) : (startBlock s).exposed = s.exposed := rfl
@[simp] theorem xformStep_exposed (s : State) : (xformStep s).exposed = s.exposed := rfl

@[simp] theorem nextBlock_exposed (s : State) : (nextBlock s).exposed = s.exposed := by
  unfold nextBlock
  dsimp only
  split <;> rfl

@[simp] theorem nextCycle_exposed (s : State) : (nextCycle s).exposed = s.exposed := by
  unfold nextCycle
  dsimp only
  split <;> rfl

@[simp] theorem startCycle_exposed (s : State) : (startCycle s).exposed = s.exposed := by
  unfold startCycle
  split <;> rfl

@[simp] theorem startMatrix_exposed (s : State) : (startMatrix s).exposed = s.exposed := by
  unfold startMatrix
  split
  · split <;> rfl
  · rfl

@[simp] theorem CycleReg.write_exposed (s : State) (w : Word) (r : CycleReg) : (r.write s w).exposed = s.exposed := by
  cases r <;> rfl

theorem afterAccess_exposed {after : State → State} (hafter : ∀ s, (after s).exposed = s.exposed) (k : Fin 8)
    (s : State) : (afterAccess after k s).exposed = s.exposed := by
  rcases afterAccess_cases after k s with ⟨-, h⟩ | ⟨-, -, h⟩ | ⟨-, -, h⟩
  · rw [h]; rfl
  · rw [h]; rfl
  · rw [h, hafter]

/-- Whatever is read off the exposed part alone is the same where the exposed parts are. -/
theorem eq_of_exposed_eq {α : Type} (f : State → α) (hf : ∀ s, f s.exposed = f s) {s t : State}
    (h : t.exposed = s.exposed) : f t = f s := by
  rw [← hf t, h, hf]

theorem mem_of_exposed_eq {s t : State} (h : t.exposed = s.exposed) : t.mem = s.mem :=
  eq_of_exposed_eq State.mem (fun _ => rfl) h

theorem aw_of_exposed_eq {s t : State} (h : t.exposed = s.exposed) : t.aw = s.aw :=
  eq_of_exposed_eq State.aw (fun _ => rfl) h

theorem State.memRead_of_mem {s t : State} (hmem : t.mem = s.mem) (haw : t.aw = s.aw) (a : Nat) :
    t.memRead a = s.memRead a :=
  State.memRead_congr haw fun _ _ => congrArg (fun m => Memory.readByte m _) hmem

/-! ### Rows and cells -/

theorem State.lastRow_iff : s.lastRow = true ↔ s.row = 63 := by
  rw [State.lastRow, beq_iff_eq, ← BitVec.toNat_inj]
  rfl

theorem toNat_add_one_of_lt {f : Field} {n : Nat} (h : f.toNat < n) (hn : n < 2 ^ 32) :
    (f + 1).toNat = f.toNat + 1 := by
  rw [BitVec.toNat_add, Nat.mod_eq_of_lt (by simp; omega)]
  rfl

/-- `BA` holds the block's address as it is: the address is below `2^AW` already. -/
theorem State.truncWord_blockAddr (s : State) (i j : Nat) :
    s.truncWord (s.blockAddr i j) = BitVec.ofNat 64 (s.blockAddr i j) := by
  rw [State.truncWord, State.trunc_of_lt (s.blockAddr_lt i j)]

/-- The block at `(0, 0)` starts where the matrix does. -/
theorem State.blockAddr_zero (s : State) : s.blockAddr 0 0 = s.baseAddr.toNat % 2 ^ s.aw := by
  rw [State.blockAddr_eq]
  simp [State.trunc]

theorem enterBlock_eq (i j : Field) (s : State) :
    enterBlock i j s =
      { s with ci := i, cj := j, ba := BitVec.ofNat 64 (s.blockAddr i.toNat j.toNat), fsm := .load, row := 0 } := by
  rw [enterBlock, State.truncWord_blockAddr, enter]

theorem enterBlock_zero_eq (s : State) :
    enterBlock 0 0 s =
      { s with ci := 0, cj := 0, ba := BitVec.ofNat 64 (s.baseAddr.toNat % 2 ^ s.aw), fsm := .load, row := 0 } := by
  rw [enterBlock_eq, ← State.blockAddr_zero]
  rfl

theorem nextCell_of_next_column {columns : Nat} (hcj : s.cj.toNat + 1 < columns) (hc : columns < 2 ^ 32) :
    s.nextCell columns = (s.ci, s.cj + 1) := by
  rcases s.nextCell_cases (columns := columns) (by omega) hc with ⟨-, h⟩ | ⟨hend, -⟩
  · exact h
  · omega

theorem nextCell_of_last_column {columns : Nat} (hcj : s.cj.toNat + 1 = columns) (hc : columns < 2 ^ 32) :
    s.nextCell columns = (s.ci + 1, 0) := by
  rcases s.nextCell_cases (columns := columns) (by omega) hc with ⟨hless, -⟩ | ⟨-, h⟩
  · omega
  · exact h

theorem nextBlock_of_next_column (hcj : s.cj.toNat + 1 < s.numBlocks) (hci : s.ci.toNat < s.numBlocks) :
    nextBlock s = enterBlock s.ci (s.cj + 1) s := by
  have hn := s.numBlocks_lt
  rw [nextBlock, nextCell_of_next_column hcj (by omega)]
  exact if_neg (by dsimp only; omega)

theorem nextBlock_of_next_row (hcj : s.cj.toNat + 1 = s.numBlocks) (hci : s.ci.toNat + 1 < s.numBlocks) :
    nextBlock s = enterBlock (s.ci + 1) 0 s := by
  have hn := s.numBlocks_lt
  have hrow := toNat_add_one_of_lt (f := s.ci) (n := s.numBlocks) (by omega) (by omega)
  rw [nextBlock, nextCell_of_last_column hcj (by omega)]
  exact if_neg (by dsimp only; omega)

theorem nextBlock_of_last (hcj : s.cj.toNat + 1 = s.numBlocks) (hci : s.ci.toNat + 1 = s.numBlocks) :
    nextBlock s = raise .none { s with ci := s.ci + 1, cj := 0 } := by
  have hn := s.numBlocks_lt
  have hrow := toNat_add_one_of_lt (f := s.ci) (n := s.numBlocks) (by omega) (by omega)
  rw [nextBlock, nextCell_of_last_column hcj (by omega)]
  exact if_pos (by dsimp only; omega)

theorem nextCycle_of_next_column (hcj : s.cj.toNat + 1 < s.numBlocks / 2) (hci : s.ci.toNat < (s.numBlocks + 1) / 2) :
    nextCycle s = enter (.cyc 0) 0 { s with cj := s.cj + 1 } := by
  have hn := s.numBlocks_lt
  rw [nextCycle, nextCell_of_next_column hcj (by omega)]
  exact if_neg (by dsimp only; omega)

theorem nextCycle_of_next_row (hcj : s.cj.toNat + 1 = s.numBlocks / 2) (hci : s.ci.toNat + 1 < (s.numBlocks + 1) / 2) :
    nextCycle s = enter (.cyc 0) 0 { s with ci := s.ci + 1, cj := 0 } := by
  have hn := s.numBlocks_lt
  have hrow := toNat_add_one_of_lt (f := s.ci) (n := s.numBlocks) (by omega) (by omega)
  rw [nextCycle, nextCell_of_last_column hcj (by omega)]
  exact if_neg (by dsimp only; omega)

theorem nextCycle_of_last (hcj : s.cj.toNat + 1 = s.numBlocks / 2) (hci : s.ci.toNat + 1 = (s.numBlocks + 1) / 2) :
    nextCycle s = enterBlock 0 0 { s with ph := .inBlock } := by
  have hn := s.numBlocks_lt
  have hrow := toNat_add_one_of_lt (f := s.ci) (n := s.numBlocks) (by omega) (by omega)
  rw [nextCycle, nextCell_of_last_column hcj (by omega)]
  exact if_pos (by dsimp only; omega)

/-! ### The checks of the matrix commands (R78, R79, R107, R110) -/

theorem State.matrixCheck_eq (s : State) :
    s.matrixCheck =
      if s.dimN.toNat = 0 ∨ s.dimN.toNat % 64 ≠ 0 then .invalidDimension
      else if s.strideS.toNat < s.dimN.toNat / 8 then .invalidStride
      else .none := by
  rcases s.matrixCheck_cases with ⟨h, hdim⟩ | ⟨h, ⟨h0, h64⟩, hstride⟩ | ⟨h, ⟨h0, h64⟩, hstride⟩
  · rw [h, if_pos hdim]
  · rw [h, if_neg (by simp [h0, h64]), if_pos hstride]
  · rw [h, if_neg (by simp [h0, h64]), if_neg (by omega)]

theorem State.cycleCheck_eq (s : State) :
    s.cycleCheck =
      if s.matrixCheck ≠ .none then s.matrixCheck
      else if s.numBlocks ≤ s.biI.toNat ∨ s.numBlocks ≤ s.bjJ.toNat then .coordRange
      else .none := by
  rcases s.cycleCheck_cases with ⟨h, hmatrix⟩ | ⟨h, hmatrix, hcoords⟩ | ⟨h, hmatrix, hi, hj⟩
  · rw [h, if_pos hmatrix]
  · rw [h, if_neg (by simp [hmatrix]), if_pos hcoords]
  · rw [h, if_neg (by simp [hmatrix]), if_neg (by omega)]

theorem startCycle_of_accepted (h : s.cycleCheck = .none) :
    startCycle s = enter (.cyc 0) 0 { s with ci := s.biI, cj := s.bjJ } := by
  simp [startCycle, h]

theorem startCycle_of_failed {code : ErrCode} (h : s.cycleCheck = code) (hcode : code ≠ .none) :
    startCycle s = raise code s := by
  unfold startCycle
  split
  · next hnone => exact absurd (h.symm.trans hnone) hcode
  · rw [h]

theorem startMatrix_of_failed {code : ErrCode} (h : s.matrixCheck = code) (hcode : code ≠ .none) :
    startMatrix s = raise code s := by
  unfold startMatrix
  split
  · next hnone => exact absurd (h.symm.trans hnone) hcode
  · rw [h]

theorem startMatrix_of_one_block (h : s.matrixCheck = .none) (hn : s.numBlocks = 1) :
    startMatrix s = enterBlock 0 0 { s with ph := .inBlock } := by
  simp [startMatrix, h, hn]

theorem startMatrix_of_many_blocks (h : s.matrixCheck = .none) (hn : s.numBlocks ≠ 1) :
    startMatrix s = enter (.cyc 0) 0 { s with ci := 0, cj := 0, ph := .relocation } := by
  simp [startMatrix, h, hn]

/-! ### The steps that the block commands share (R71, R72, R98) -/

/-- The commands that go through LOAD, XFORM and STORE. -/
abbrev Instr.worksOnBlocks (i : Instr) : Prop := i = .tpose ∨ i = .rotblk ∨ i = .rotmat

/-- What a row word passes through on its way into `BRF` (R71, R72). -/
def loadPass (i : Instr) : Word → Word := if i = .tpose then fun w => w else preReverse

/-- What a row word passes through on its way back to memory (R71, R72). -/
def storePass (i : Instr) : Word → Word := if i = .tpose then fun w => w else postReverse

/-- Where the FSM goes after the last row of a block (R98). -/
def afterStore (i : Instr) : State → State := if i = .rotmat then nextBlock else raise .none

theorem afterStore_of_ne {i : Instr} (hi : i ≠ .rotmat) : afterStore i = raise .none := if_neg hi

theorem afterStore_rotmat : afterStore .rotmat = nextBlock := rfl

theorem afterStore_exposed (i : Instr) (s : State) : (afterStore i s).exposed = s.exposed := by
  unfold afterStore
  split
  · exact nextBlock_exposed s
  · rfl

theorem exec_load_eq {i : Instr} (hi : Instr.worksOnBlocks i) (h : s.fsm = .load) :
    exec i s = .next (loadStep (loadPass i) s) := by
  rcases hi with rfl | rfl | rfl
  · exact exec_tpose_load h
  · exact exec_rotblk_load h
  · exact exec_rotmat_load h

theorem exec_xform_eq {i : Instr} (hi : Instr.worksOnBlocks i) (h : s.fsm = .xform) : exec i s = .next (xformStep s) := by
  rcases hi with rfl | rfl | rfl
  · exact exec_tpose_xform h
  · exact exec_rotblk_xform h
  · exact exec_rotmat_xform h

theorem exec_store_eq {i : Instr} (hi : Instr.worksOnBlocks i) (h : s.fsm = .store) :
    exec i s = .next (storeStep (storePass i) (afterStore i) s) := by
  rcases hi with rfl | rfl | rfl
  · exact exec_tpose_store h
  · exact exec_rotblk_store h
  · exact exec_rotmat_store h

theorem loadStep_of_accepted (h : s.memOk .read s.currentRowAddr = true) (pass : Word → Word) :
    loadStep pass s =
      { s with
        brf := s.brf.setIfInBounds s.row.toNat (pass (s.memRead s.currentRowAddr))
        fsm := if s.row = 63 then .xform else .load
        row := if s.row = 63 then s.row else s.row + 1 } := by
  rcases loadStep_cases pass s with ⟨-, hstep⟩ | ⟨hno, -⟩
  · simpa only [State.lastRow_iff] using hstep
  · exact absurd h (by simp [hno])

theorem storeStep_of_accepted (h : s.memOk .write s.currentRowAddr = true) (pass : Word → Word) (after : State → State) :
    storeStep pass after s =
      (if s.row = 63 then after (s.memWrite s.currentRowAddr (pass (s.brf[s.row.toNat]?.getD 0)))
      else enter .store (s.row + 1) (s.memWrite s.currentRowAddr (pass (s.brf[s.row.toNat]?.getD 0)))) := by
  rcases storeStep_cases pass after s with ⟨-, hstep⟩ | ⟨hno, -⟩
  · simpa only [State.lastRow_iff] using hstep
  · exact absurd h (by simp [hno])

/-! ### The accesses of a 4-cycle row (R81) -/

theorem cycStep_of_accepted_read {k : Fin 8} (hkind : (cycleAccess k).kind = .read) (h : s.memOk .read (s.cycAddr k) = true)
    (after : State → State) :
    cycStep after k s = afterAccess after k ((cycleAccess k).reg.write s (s.memRead (s.cycAddr k))) := by
  rcases cycStep_cases after k s with ⟨-, -, hstep⟩ | ⟨hwrite, -⟩ | ⟨hno, -⟩
  · exact hstep
  · simp [hkind] at hwrite
  · simp [hkind, h] at hno

theorem cycStep_of_accepted_write {k : Fin 8} (hkind : (cycleAccess k).kind = .write)
    (h : s.memOk .write (s.cycAddr k) = true) (after : State → State) :
    cycStep after k s = afterAccess after k (s.memWrite (s.cycAddr k) ((cycleAccess k).reg.value s)) := by
  rcases cycStep_cases after k s with ⟨hread, -⟩ | ⟨-, -, hstep⟩ | ⟨hno, -⟩
  · simp [hkind] at hread
  · exact hstep
  · simp [hkind, h] at hno

theorem afterAccess_of_lt {k : Fin 8} (hk : k.val < 7) (after : State → State) (s : State) :
    afterAccess after k s = { s with fsm := .cyc (k + 1) } := if_pos hk

theorem afterAccess_seven_of_ne (h : s.row ≠ 63) (after : State → State) :
    afterAccess after 7 s = enter (.cyc 0) (s.row + 1) s := by
  rw [← State.lastRow_iff.ne] at h
  rcases afterAccess_cases after 7 s with ⟨h7, -⟩ | ⟨-, -, hstep⟩ | ⟨-, hlast, -⟩
  · exact absurd h7 (by decide)
  · exact hstep
  · exact absurd hlast h

theorem afterAccess_seven_of_eq (h : s.row = 63) (after : State → State) : afterAccess after 7 s = after s := by
  rw [← State.lastRow_iff] at h
  rcases afterAccess_cases after 7 s with ⟨h7, -⟩ | ⟨-, hnot, -⟩ | ⟨-, -, hstep⟩
  · exact absurd h7 (by decide)
  · exact absurd h (by simp [hnot])
  · exact hstep

/-- Where the FSM goes after a whole 4-cycle (R83, R84, R98). -/
def afterCycle (i : Instr) : State → State := if i = .rotmat then nextCycle else raise .none

theorem afterCycle_cycle4 : afterCycle .cycle4 = raise .none := rfl

theorem afterCycle_rotmat : afterCycle .rotmat = nextCycle := rfl

theorem exec_cyc_eq {i : Instr} (hi : i = .cycle4 ∨ i = .rotmat) {k : Fin 8} (h : s.fsm = .cyc k) :
    exec i s = .next (cycStep (afterCycle i) k s) := by
  rcases hi with rfl | rfl
  · exact exec_cycle4_cyc h
  · exact exec_rotmat_cyc h

/-- A reading access but the last puts its word into `TMP` or `DR` and goes to the next access. -/
theorem exec_cyc_read {i : Instr} (hi : i = .cycle4 ∨ i = .rotmat) {k : Fin 8} (hk : k.val < 7)
    (hkind : (cycleAccess k).kind = .read) (hcyc : s.fsm = .cyc k) (hok : s.memOk .read (s.cycAddr k) = true) :
    exec i s = .next { (cycleAccess k).reg.write s (s.memRead (s.cycAddr k)) with fsm := .cyc (k + 1) } := by
  rw [exec_cyc_eq hi hcyc, cycStep_of_accepted_read hkind hok, afterAccess_of_lt hk]

/-- A writing access but the last stores `TMP` or `DR` and goes to the next access. -/
theorem exec_cyc_write {i : Instr} (hi : i = .cycle4 ∨ i = .rotmat) {k : Fin 8} (hk : k.val < 7)
    (hkind : (cycleAccess k).kind = .write) (hcyc : s.fsm = .cyc k) (hok : s.memOk .write (s.cycAddr k) = true) :
    exec i s = .next { s.memWrite (s.cycAddr k) ((cycleAccess k).reg.value s) with fsm := .cyc (k + 1) } := by
  rw [exec_cyc_eq hi hcyc, cycStep_of_accepted_write hkind hok, afterAccess_of_lt hk]

/-- The last access stores `TMP` in cell B, and the row ends. -/
theorem exec_cyc_last {i : Instr} (hi : i = .cycle4 ∨ i = .rotmat) (hcyc : s.fsm = .cyc 7)
    (hok : s.memOk .write (s.cycAddr 7) = true) :
    exec i s = .next (afterAccess (afterCycle i) 7 (s.memWrite (s.cycAddr 7) s.tmp)) := by
  rw [exec_cyc_eq hi hcyc, cycStep_of_accepted_write (k := 7) rfl hok]
  rfl

end Sys2Proof.Machine
end

section
/-! The statements about the steps of the commands of 41_block_rotator.md, 43_matrix_driver.md and 44_control.md, and about
the checks of 60_exceptions.md. -/

namespace Sys2Proof.Machine

/-- Of an index below 64, `^ 63` is the mirror image. -/
theorem xor_sixty_three {b : Nat} (hb : b < 64) : b ^^^ 63 = 63 - b := by
  have hmirror : ∀ b < 64, b ^^^ 63 = 63 - b := by decide
  exact hmirror b hb

theorem regBit_butterflyTranspose_mirror (brf : BlockRegs) {r b : Nat} (hr : r < 64) (hb : b < 64) :
    regBit (butterflyTranspose brf) r b = regBit brf (63 - b) (63 - r) := by
  rw [regBit_butterflyTranspose brf hr hb, xor_sixty_three hr, xor_sixty_three hb]

/-- Settles O16: mirroring both indices and swapping them, done twice, gives each bit back (R68). -/
theorem butterflyTransposesBlock : Obligations.ButterflyTransposesBlock := by
  refine fun brf => ⟨fun r hr b hb => regBit_butterflyTranspose_mirror brf hr hb, ?involution⟩
  case involution =>
    refine BlockRegs.ext_of_regBit fun r hr b hb => ?_
    rw [regBit_butterflyTranspose_mirror _ hr hb, regBit_butterflyTranspose_mirror _ (by omega) (by omega),
      Nat.sub_sub_self (by omega), Nat.sub_sub_self (by omega)]

/-- Settles O24: with nothing scheduled, and with a core step scheduled, `step` is the core's step (R95). -/
theorem stepRunsDecodedCommand : Obligations.StepRunsDecodedCommand := by
  intro s i hactive hi
  refine ⟨fun hnil => ?nothingScheduled, fun rest h => ?coreScheduled⟩
  case nothingScheduled => rw [step_of_schedule_nil hnil, coreStep_of_decode hactive hi]
  case coreScheduled =>
    rw [step_of_schedule_cons h]
    exact coreStep_of_decode (s := { s with schedule := rest }) hactive hi

/-- Settles O30: both check steps are `startBlock` (R96), and `BA` is the block address of R76. -/
theorem blockCommandsStart : Obligations.BlockCommandsStart := by
  intro s hcheck i hi
  have hstart : exec i s = .next (startBlock s) := by
    rcases hi with rfl | rfl
    · exact exec_tpose_check hcheck
    · exact exec_rotblk_check hcheck
  rw [hstart, startBlock, enterBlock_eq]
  rfl

/-- Settles O31: the accepted LOAD step sets one register and leaves the others (R98). -/
theorem loadStepFillsRegister : Obligations.LoadStepFillsRegister := by
  intro s hload a ha hok i hi
  obtain rfl : a = s.currentRowAddr := ha
  refine ⟨_, by rw [exec_load_eq hi hload, loadStep_of_accepted hok], ?loaded, fun r hr => ?others⟩
  case loaded =>
    rw [Vector.getElem?_setIfInBounds_self_of_lt s.row.isLt, loadPass]
    split <;> rfl
  case others => rw [Vector.getElem?_setIfInBounds_ne (Ne.symm hr)]

/-- Settles O32: `xformStep` is the whole network in one step (R74), which transposes (R68). -/
theorem transformStepTransposes : Obligations.TransformStepTransposes := fun s hxform _ hi =>
  ⟨butterflyTranspose s.brf, exec_xform_eq hi hxform, fun _ hr _ hb => regBit_butterflyTranspose_mirror s.brf hr hb⟩

/-- Settles O33: the accepted STORE step writes one word, and after the last row goes where `afterStore` says; of the three
places of `ROTMAT`, each is one case of `nextBlock` (R98). -/
theorem storeStepWritesRow : Obligations.StoreStepWritesRow := by
  intro s hstore haw a ha hok i hi
  obtain rfl : a = s.currentRowAddr := ha
  set w := s.memWrite s.currentRowAddr (storePass i (s.brf[s.row.toNat]?.getD 0)) with hw
  have hexec := (exec_store_eq hi hstore).trans (congrArg _ (storeStep_of_accepted hok _ _))
  refine ⟨_, hexec, ?_⟩
  rw [← hw]
  set t := if s.row = 63 then afterStore i w else enter .store (s.row + 1) w with ht
  have hexposed : t.exposed = w.exposed := by
    rw [ht]
    split
    · exact afterStore_exposed i w
    · rfl
  have hmem : t.mem = w.mem := mem_of_exposed_eq hexposed
  have htaw : t.aw = w.aw := aw_of_exposed_eq hexposed
  refine ⟨?written, fun b hb => ?frame, fun hrow => ?nextRow, fun hrow hblock => ?ended, fun hrow hmatrix hci hcj => ?matrix⟩
  case written =>
    rw [State.memRead_of_mem hmem htaw, State.memRead_memWrite (by omega), storePass]
    split <;> rfl
  case frame =>
    calc t.readByte b = w.readByte b := congrArg (fun m => Memory.readByte m b) hmem
      _ = s.readByte b := State.readByte_memWrite_outside _ hb
  case nextRow =>
    rw [hmem, ht, if_neg hrow, enter, ← hstore]
    rfl
  case ended =>
    rw [hmem, ht, if_pos hrow, afterStore, if_neg hblock]
    rfl
  case matrix =>
    have hnext : t = nextBlock w := by rw [ht, if_pos hrow, afterStore, if_pos hmatrix]
    have hn := lt_trans s.numBlocks_lt (show 2 ^ 26 < 2 ^ 32 by decide)
    rw [hmem, hnext]
    refine ⟨fun hcol => ?nextColumn, fun hcol hnextRow => ?nextMatrixRow, fun hcol hlast => ?lastBlock⟩
    case nextColumn =>
      rw [nextBlock_of_next_column (s := w) hcol hci, enterBlock_eq, memWrite_cj, toNat_add_one_of_lt hcj hn]
      rfl
    case nextMatrixRow =>
      rw [nextBlock_of_next_row (s := w) hcol hnextRow, enterBlock_eq, memWrite_ci, toNat_add_one_of_lt hci hn]
      rfl
    case lastBlock => exact nextBlock_of_last (s := w) hcol hlast

/-- Settles O34: `cycleCheck` names the first check that fails (R110), and `startCycle` asks it. -/
theorem cycleCommandChecks : Obligations.CycleCommandChecks := by
  intro s hcheck
  rw [exec_cycle4_check hcheck]
  congr 1
  split_ifs with hdim hstride hcoords
  · have hmatrix : s.matrixCheck = .invalidDimension := by rw [s.matrixCheck_eq, if_pos hdim]
    exact startCycle_of_failed (by rw [s.cycleCheck_eq, hmatrix, if_pos (by decide)]) (by decide)
  · have hmatrix : s.matrixCheck = .invalidStride := by rw [s.matrixCheck_eq, if_neg hdim, if_pos hstride]
    exact startCycle_of_failed (by rw [s.cycleCheck_eq, hmatrix, if_pos (by decide)]) (by decide)
  all_goals
    have hmatrix : s.matrixCheck = .none := by rw [s.matrixCheck_eq, if_neg hdim, if_neg hstride]
    have hcycle := s.cycleCheck_eq
    rw [if_neg (not_not.mpr hmatrix)] at hcycle
  · exact startCycle_of_failed (code := .coordRange) (hcycle.trans (if_pos hcoords)) (by decide)
  · exact startCycle_of_accepted (hcycle.trans (if_neg hcoords))

/-- Settles O35: `matrixCheck` names the first check that fails (R110); one block leaves nothing to relocate (R88). -/
theorem matrixCommandChecks : Obligations.MatrixCommandChecks := by
  intro s hcheck
  rw [exec_rotmat_check hcheck]
  congr 1
  have hmatrix := s.matrixCheck_eq
  split_ifs with hdim hstride hone
  · exact startMatrix_of_failed (by rw [hmatrix, if_pos hdim]) (by decide)
  · exact startMatrix_of_failed (by rw [hmatrix, if_neg hdim, if_pos hstride]) (by decide)
  · rw [startMatrix_of_one_block (by rw [hmatrix, if_neg hdim, if_neg hstride]) hone, enterBlock_zero_eq]
  · exact startMatrix_of_many_blocks (by rw [hmatrix, if_neg hdim, if_neg hstride]) hone

/-- Settles O36: each access is what the table of R81 says, at the address of its cell. -/
theorem cycleRowMovesWords : Obligations.CycleRowMovesWords := by
  rintro s _ _ _ _ rfl rfl rfl rfl i hi
  refine ⟨exec_cyc_read (k := 0) hi (by decide) rfl, exec_cyc_read (k := 1) hi (by decide) rfl,
    exec_cyc_write (k := 2) hi (by decide) rfl, exec_cyc_read (k := 3) hi (by decide) rfl,
    exec_cyc_write (k := 4) hi (by decide) rfl, exec_cyc_read (k := 5) hi (by decide) rfl,
    exec_cyc_write (k := 6) hi (by decide) rfl, fun hcyc hok hrow => ?lastAccess⟩
  case lastAccess =>
    rw [exec_cyc_last hi hcyc hok, afterAccess_seven_of_ne (by exact hrow)]
    rfl

/-- Settles O37: after the last access of row 63 the FSM goes where `afterCycle` says; of the three places of `ROTMAT`, each
is one case of `nextCycle` (R98). -/
theorem cycleEndsOrGoesOn : Obligations.CycleEndsOrGoesOn := by
  intro s a ha hcyc hrow hok
  obtain rfl : a = s.cycAddr 7 := by
    rw [ha, State.cycAddr, hrow]
    rfl
  have hexec {i : Instr} (hi : i = .cycle4 ∨ i = .rotmat) :
      exec i s = .next (afterCycle i (s.memWrite (s.cycAddr 7) s.tmp)) := by
    rw [exec_cyc_last hi hcyc hok, afterAccess_seven_of_eq (by exact hrow)]
  refine ⟨hexec (.inl rfl), fun hci hcj => ⟨fun hcol => ?nextColumn, fun hcol hnext => ?nextRow, fun hcol hlast => ?phaseTwo⟩⟩
  all_goals refine (hexec (.inr rfl)).trans (congrArg _ ?_)
  case nextColumn => exact nextCycle_of_next_column (s := s.memWrite (s.cycAddr 7) s.tmp) hcol hci
  case nextRow => exact nextCycle_of_next_row (s := s.memWrite (s.cycAddr 7) s.tmp) hcol hnext
  case phaseTwo =>
    exact (nextCycle_of_last (s := s.memWrite (s.cycAddr 7) s.tmp) hcol hlast).trans (enterBlock_zero_eq _)

/-- Settles O39: a check step that fails raises the code of the first failing check (R110), and nothing has changed when the
COMPLETE step ends the command (R111). -/
theorem failedChecksTouchNothing : Obligations.FailedChecksTouchNothing := by
  intro s
  have ends {i : Instr} {code : ErrCode} (hissued : s.issued i) (hexec : exec i s = .next (raise code s)) :
      stepsTo 2 s (s.ended code) := by
    obtain ⟨hcheck, -, hop, hnil⟩ := hissued
    refine stepsTo_two_of_raise hnil ?_
    rw [coreStep_of_decode (by simp [hcheck]) (hop ▸ decode_eq_ok_iff_eq_encode.mpr rfl), hexec]
  refine ⟨fun hissued => ?cycle, fun hissued => ?matrix⟩
  case cycle =>
    have hexec := cycleCommandChecks s hissued.1
    refine ⟨fun hdim => ends hissued ?_, fun h0 h64 hstride => ends hissued ?_,
      fun h0 h64 hstride hcoords => ends hissued ?_⟩
    · rw [hexec, if_pos hdim]; rfl
    · rw [hexec, if_neg (by omega), if_pos hstride]; rfl
    · rw [hexec, if_neg (by omega), if_neg (by omega), if_pos hcoords]; rfl
  case matrix =>
    have hexec := matrixCommandChecks s hissued.1
    refine ⟨fun hdim => ends hissued ?_, fun h0 h64 hstride => ends hissued ?_⟩
    · rw [hexec, if_pos hdim]; rfl
    · rw [hexec, if_neg (by omega), if_pos hstride]; rfl

end Sys2Proof.Machine
end

section
/-! What a step of the core does outside its sequencing and data registers, and where the bytes that it writes lie (R43, R45,
R95 to R98). -/

namespace Sys2Proof.Machine

variable {s t : State}

/-! ### The effect of a step -/

/-- The step of this state writes the word at `a` (R81, R98). -/
def State.WritesAt (s : State) (a : Nat) : Prop :=
  (s.fsm = .store ∧ a = s.currentRowAddr) ∨ ∃ k, s.fsm = .cyc k ∧ (cycleAccess k).kind = .write ∧ a = s.cycAddr k

/-- All that a step of the core can do outside its registers: nothing, a result, one word of memory, a bus error, or the end
of the command (R96 to R98, R108). -/
inductive StepEffect (s t : State) : Prop where
  | registers (h : t.exposed = s.exposed)
  | result (y : Word) (hcheck : s.fsm = .check)
      (hd : decode s.op = .ok .frev ∨ decode s.op = .ok .brev ∨ decode s.op = .ok .baddr)
      (h : t.exposed = { s with resultY := y }.exposed)
  | write (a : Nat) (v : Word) (hsite : s.WritesAt a) (h : t.exposed = (s.memWrite a v).exposed)
  | busError (a : Nat) (ha : a < 2 ^ s.aw) (h : t = busError a s)
  | complete (code : ErrCode) (h : t = complete code s)

theorem CheckStep.effect (hcheck : s.fsm = .check) (h : CheckStep s t) : StepEffect s t := by
  cases h with
  | illegal | nop => exact .registers rfl
  | result y hd => exact .result y hcheck hd rfl
  | block => exact .registers (startBlock_exposed s)
  | cycle => exact .registers (startCycle_exposed s)
  | matrix => exact .registers (startMatrix_exposed s)

theorem currentRowAddr_lt (s : State) : s.currentRowAddr < 2 ^ s.aw := s.trunc_lt _

theorem cycAddr_lt (s : State) (k : Fin 8) : s.cycAddr k < 2 ^ s.aw := s.trunc_lt _

theorem loadStep_effect (pass : Word → Word) (s : State) : StepEffect s (loadStep pass s) := by
  rcases loadStep_cases pass s with ⟨-, h⟩ | ⟨-, h⟩
  · exact .registers (by rw [h]; rfl)
  · exact .busError _ (currentRowAddr_lt s) h

theorem storeStep_effect (hstore : s.fsm = .store) (pass : Word → Word) {after : State → State}
    (hafter : ∀ s, (after s).exposed = s.exposed) : StepEffect s (storeStep pass after s) := by
  rcases storeStep_cases pass after s with ⟨-, h⟩ | ⟨-, h⟩
  · refine .write s.currentRowAddr (pass (s.brf[s.row.toNat]?.getD 0)) (.inl ⟨hstore, rfl⟩) ?_
    rw [h]
    split
    · exact hafter _
    · rfl
  · exact .busError _ (currentRowAddr_lt s) h

theorem cycStep_effect {k : Fin 8} (hcyc : s.fsm = .cyc k) {after : State → State}
    (hafter : ∀ s, (after s).exposed = s.exposed) : StepEffect s (cycStep after k s) := by
  rcases cycStep_cases after k s with ⟨-, -, h⟩ | ⟨hwrite, -, h⟩ | ⟨-, h⟩
  · exact .registers (by rw [h, afterAccess_exposed hafter, CycleReg.write_exposed])
  · exact .write (s.cycAddr k) ((cycleAccess k).reg.value s) (.inr ⟨k, hcyc, hwrite, rfl⟩)
      (by rw [h, afterAccess_exposed hafter])
  · exact .busError _ (cycAddr_lt s k) h

theorem CoreStep.effect (h : CoreStep s t) : StepEffect s t := by
  cases h with
  | idle => exact .registers rfl
  | check hcheck hstep => exact hstep.effect hcheck
  | load _ pass => exact loadStep_effect pass s
  | xform => exact .registers (xformStep_exposed s)
  | storeBlock hstore pass => exact storeStep_effect hstore pass (raise_exposed .none)
  | storeMatrix hstore pass => exact storeStep_effect hstore pass nextBlock_exposed
  | cycle hcyc => exact cycStep_effect hcyc (raise_exposed .none)
  | matrix hcyc => exact cycStep_effect hcyc nextCycle_exposed
  | complete => exact .complete _ rfl

/-- The state with all blanked that a step of the core may change. -/
def State.settings (s : State) : State :=
  { s.exposed with
    busy := false, done := false, errcode := 0, resultY := 0, faultAddr := 0, mem := [], draws := 0 }

/-- A step of the core leaves the settings alone (R17 to R21, R25). -/
theorem StepEffect.settings_eq (h : StepEffect s t) : t.settings = s.settings := by
  have blanked {u : State} (hu : t.exposed = u.exposed) : t.settings = u.settings := by
    rw [State.settings, hu, State.settings]
  cases h with
  | registers h => exact blanked h
  | result y _ _ h => exact (blanked h).trans rfl
  | write a v _ h => exact (blanked h).trans rfl
  | busError a _ h => rw [h]; rfl
  | complete code h => rw [h]; rfl

theorem eq_of_settings_eq {α : Type} (f : State → α) (hf : ∀ s, f s.settings = f s) (h : t.settings = s.settings) :
    f t = f s := by
  rw [← hf t, h, hf]

/-- While `BUSY` stays 1, an effect outside the registers is none that a CSR read shows (R33, R126; log 8). -/
theorem StepEffect.csrValue_eq (h : StepEffect s t) (hs : s.busy = true) (ht : t.busy = true) (c : Csr) :
    t.csrValue c = s.csrValue c := by
  have shown {u : State} (hu : t.exposed = u.exposed) : t.csrValue c = u.csrValue c :=
    eq_of_exposed_eq (fun s => s.csrValue c) (fun s => by cases c <;> rfl) hu
  cases h with
  | registers h => exact shown h
  | result y _ _ h => rw [shown h]; cases c <;> simp [State.csrValue, State.statusWord, hs]
  | write a v _ h => rw [shown h]; cases c <;> rfl
  | busError a _ h => subst h; cases c <;> simp [State.csrValue, State.statusWord, hs]
  | complete code h => subst h; cases ht

/-! ### The bytes of a footprint (R45) -/

theorem State.mem_rectangle {a start rows columns : Nat} :
    a ∈ s.rectangle start rows columns ↔
      ∃ r < rows, ∃ g < columns, a = s.trunc (start + r * s.strideS.toNat + g) := by
  simp [State.rectangle, eq_comm]

theorem State.mem_blockFootprint {a i j : Nat} :
    a ∈ s.blockFootprint i j ↔ ∃ r < 64, ∃ g < 8, a = s.trunc (s.rowAddr (s.blockAddr i j) r + g) := by
  simp only [State.blockFootprint, State.mem_rectangle, State.trunc_rowAddr_add]
  rfl

theorem State.footprint_of_decode {i : Instr} (hd : decode s.op = .ok i) : s.footprint = s.instrFootprint i := by
  simp [State.footprint, hd]

theorem State.dimN_eq_of_check (h : s.matrixCheck = .none) : s.dimN.toNat = 64 * s.numBlocks ∧ 0 < s.numBlocks := by
  rcases s.matrixCheck_cases with ⟨hcode, -⟩ | ⟨hcode, -⟩ | ⟨-, ⟨h0, h64⟩, -⟩
  · simp [h] at hcode
  · simp [h] at hcode
  · simp only [State.numBlocks, Config.blockSize]
    omega

theorem State.stride_of_check (h : s.matrixCheck = .none) : 8 * s.numBlocks ≤ s.strideS.toNat := by
  rcases s.matrixCheck_cases with ⟨hcode, -⟩ | ⟨hcode, -⟩ | ⟨-, ⟨h0, h64⟩, hstride⟩
  · simp [h] at hcode
  · simp [h] at hcode
  · simp only [State.numBlocks, Config.blockSize]
    omega

theorem State.matrixCheck_of_cycleCheck (h : s.cycleCheck = .none) :
    s.matrixCheck = .none ∧ s.biI.toNat < s.numBlocks ∧ s.bjJ.toNat < s.numBlocks := by
  rcases s.cycleCheck_cases with ⟨hcode, hne⟩ | ⟨hcode, -⟩ | ⟨-, hok⟩
  · exact absurd (hcode ▸ h) hne
  · simp [h] at hcode
  · exact hok

/-- The bytes of the matrix, as `ROTMAT`'s footprint has them. -/
abbrev State.matrixFootprint (s : State) : List Nat :=
  s.rectangle s.baseAddr.toNat s.dimN.toNat (s.dimN.toNat / 8)

/-- Every block of the grid lies in the matrix. -/
theorem State.mem_matrixFootprint_of_block (hcheck : s.matrixCheck = .none) {i j : Nat} (hi : i < s.numBlocks)
    (hj : j < s.numBlocks) {a : Nat} (ha : a ∈ s.blockFootprint i j) : a ∈ s.matrixFootprint := by
  obtain ⟨r, hr, g, hg, rfl⟩ := State.mem_blockFootprint.mp ha
  have hdim := (State.dimN_eq_of_check hcheck).1
  refine State.mem_rectangle.mpr ⟨64 * i + r, by omega, 8 * j + g, by omega, ?_⟩
  rw [State.trunc_rowAddr_add, State.trunc_blockAddr_row_add]

theorem cycleCoords_lt {n i j : Nat} (hi : i < n) (hj : j < n) (p : CycleCell) :
    (cycleCoords n i j p).1 < n ∧ (cycleCoords n i j p).2 < n := by
  cases p <;> simp only [cycleCoords] <;> omega

theorem State.footprint_of_block {i : Instr} (hi : i = .tpose ∨ i = .rotblk) (hd : decode s.op = .ok i) :
    s.footprint = s.blockFootprint s.biI.toNat s.bjJ.toNat := by
  rw [State.footprint_of_decode hd]
  rcases hi with rfl | rfl <;> rfl

theorem State.footprint_of_matrix (hd : decode s.op = .ok .rotmat) (hcheck : s.matrixCheck = .none) :
    s.footprint = s.matrixFootprint := by
  rw [State.footprint_of_decode hd]
  exact if_pos hcheck

theorem State.mem_footprint_of_cell (hd : decode s.op = .ok .cycle4) (hcheck : s.cycleCheck = .none) {a : Nat} :
    a ∈ s.footprint ↔ ∃ p, a ∈ s.cellFootprint p := by
  rw [State.footprint_of_decode hd, State.instrFootprint, if_pos hcheck]
  simp only [List.mem_append]
  refine ⟨?_, fun ⟨p, hp⟩ => ?_⟩
  · rintro (((h | h) | h) | h)
    exacts [⟨_, h⟩, ⟨_, h⟩, ⟨_, h⟩, ⟨_, h⟩]
  · cases p <;> simp [hp]

/-! ### The context of a LOAD, XFORM, STORE or CYC state (R94) -/

/-- What `contextFits` says in LOAD, XFORM and STORE. -/
def State.blockContext (s : State) : Prop :=
  s.ba.toNat = s.blockAddr s.ci.toNat s.cj.toNat ∧
  (((decode s.op = .ok .tpose ∨ decode s.op = .ok .rotblk) ∧ s.ci = s.biI ∧ s.cj = s.bjJ) ∨
    (decode s.op = .ok .rotmat ∧ s.matrixCheck = .none ∧ s.ph = .inBlock ∧
      s.ci.toNat < s.numBlocks ∧ s.cj.toNat < s.numBlocks))

/-- What `contextFits` says in CYC. -/
def State.cycleContext (s : State) : Prop :=
  (decode s.op = .ok .cycle4 ∧ s.cycleCheck = .none ∧ s.ci = s.biI ∧ s.cj = s.bjJ) ∨
    (decode s.op = .ok .rotmat ∧ s.matrixCheck = .none ∧ s.ph = .relocation ∧ 2 ≤ s.numBlocks ∧
      s.ci.toNat < (s.numBlocks + 1) / 2 ∧ s.cj.toNat < s.numBlocks / 2)

theorem State.contextFits_iff :
    s.contextFits ↔
      ((s.fsm = .load ∨ s.fsm = .xform ∨ s.fsm = .store) → s.blockContext) ∧ (∀ k, s.fsm = .cyc k → s.cycleContext) := by
  unfold State.contextFits State.blockContext State.cycleContext
  cases s.fsm <;> simp

/-- The current block lies in the footprint of the command. -/
theorem State.blockContext.mem_footprint (h : s.blockContext) {a : Nat}
    (ha : a ∈ s.blockFootprint s.ci.toNat s.cj.toNat) : a ∈ s.footprint := by
  obtain ⟨-, ⟨hd, hci, hcj⟩ | ⟨hd, hcheck, -, hci, hcj⟩⟩ := h
  · rw [hci, hcj] at ha
    rcases hd with hd | hd
    · rwa [State.footprint_of_block (.inl rfl) hd]
    · rwa [State.footprint_of_block (.inr rfl) hd]
  · rw [State.footprint_of_matrix hd hcheck]
    exact State.mem_matrixFootprint_of_block hcheck hci hcj ha

/-- The four cells of the current 4-cycle lie in the footprint of the command. -/
theorem State.cycleContext.mem_footprint (h : s.cycleContext) (p : CycleCell) {a : Nat}
    (ha : a ∈ s.blockFootprint (cycleCoords s.numBlocks s.ci.toNat s.cj.toNat p).1
      (cycleCoords s.numBlocks s.ci.toNat s.cj.toNat p).2) : a ∈ s.footprint := by
  obtain ⟨hd, hcheck, hci, hcj⟩ | ⟨hd, hcheck, -, hn, hci, hcj⟩ := h
  · rw [hci, hcj] at ha
    exact (State.mem_footprint_of_cell hd hcheck).mpr ⟨p, ha⟩
  · obtain ⟨hrow, hcol⟩ := cycleCoords_lt (n := s.numBlocks) (i := s.ci.toNat) (j := s.cj.toNat) (by omega) (by omega) p
    rw [State.footprint_of_matrix hd hcheck]
    exact State.mem_matrixFootprint_of_block hcheck hrow hcol ha

/-- The word that a step writes lies in the footprint of the command (R45). -/
theorem State.WritesAt.mem_footprint {a : Nat} (h : s.WritesAt a) (hcontext : s.contextFits) {g : Nat} (hg : g < 8) :
    s.trunc (a + g) ∈ s.footprint := by
  obtain ⟨hblocks, hcycles⟩ := State.contextFits_iff.mp hcontext
  obtain ⟨hstore, rfl⟩ | ⟨k, hcyc, -, rfl⟩ := h
  · have hblock := hblocks (.inr (.inr hstore))
    refine hblock.mem_footprint (State.mem_blockFootprint.mpr ⟨s.row.toNat, s.row.isLt, g, hg, ?_⟩)
    rw [State.currentRowAddr, hblock.1]
  · exact (hcycles k hcyc).mem_footprint (cycleAccess k).cell
      (State.mem_blockFootprint.mpr ⟨s.row.toNat, s.row.isLt, g, hg, rfl⟩)

end Sys2Proof.Machine
end

section
/-! The statements about what a step of the core may change, of 10_state.md and 20_memory.md. -/

namespace Sys2Proof.Machine

/-- Settles O10: of all effects of a step, only the end of the command shows in a CSR read, and it clears `BUSY`. -/
theorem runningCommandHidesResults : Obligations.RunningCommandHidesResults := fun _ _ hs hstep ht =>
  State.csrRead_congr ((coreStep_cases hstep).effect.csrValue_eq hs ht)

/-- Settles O41: none of the effects of a step reaches the settings. -/
theorem coreNeverWritesOperands : Obligations.CoreNeverWritesOperands := by
  intro s t hstep
  have hsettings := (coreStep_cases hstep).effect.settings_eq
  have kept {α : Type} (f : State → α) (hf : ∀ s, f s.settings = f s) : f t = f s := eq_of_settings_eq f hf hsettings
  exact ⟨kept State.dimN fun _ => rfl, kept State.baseAddr fun _ => rfl, kept State.strideS fun _ => rfl,
    kept State.biI fun _ => rfl, kept State.bjJ fun _ => rfl, kept State.operandX fun _ => rfl,
    kept State.ovr fun _ => rfl, kept State.op fun _ => rfl, kept State.aw fun _ => rfl,
    kept State.refusals fun _ => rfl, kept State.schedule fun _ => rfl⟩

/-- Settles O42: `RESULT`, `FAULTADDR` and memory each change by one effect alone. -/
theorem coreWritesResultsOnlyWhere : Obligations.CoreWritesResultsOnlyWhere := by
  intro s t hstep
  have result {u : State} (h : t.exposed = u.exposed) : t.resultY = u.resultY :=
    eq_of_exposed_eq State.resultY (fun _ => rfl) h
  have faultAddr {u : State} (h : t.exposed = u.exposed) : t.faultAddr = u.faultAddr :=
    eq_of_exposed_eq State.faultAddr (fun _ => rfl) h
  cases (coreStep_cases hstep).effect with
  | registers h =>
    exact ⟨fun hne => absurd (result h) hne, fun hne => absurd (faultAddr h) hne,
      fun hne => absurd (mem_of_exposed_eq h) hne⟩
  | result y hcheck hd h =>
    exact ⟨fun _ => ⟨hcheck, hd⟩, fun hne => absurd (faultAddr h) hne, fun hne => absurd (mem_of_exposed_eq h) hne⟩
  | write a v hsite h =>
    refine ⟨fun hne => absurd (result h) hne, fun hne => absurd (faultAddr h) hne, fun _ => ?_⟩
    obtain ⟨hstore, -⟩ | ⟨k, hcyc, hkind, -⟩ := hsite
    · exact .inl hstore
    · exact .inr ⟨k, hcyc, hkind⟩
  | busError a _ h =>
    subst h
    exact ⟨fun hne => absurd rfl hne, fun _ => rfl, fun hne => absurd rfl hne⟩
  | complete code h =>
    subst h
    exact ⟨fun hne => absurd rfl hne, fun hne => absurd rfl hne, fun hne => absurd rfl hne⟩

/-- Settles O43: the one effect that reaches memory writes a word, and the invariant puts its eight bytes into the footprint
(R45). -/
theorem coreStaysInFootprint : Obligations.CoreStaysInFootprint := by
  intro s t hinv hstep a ha
  have unchanged {u : State} (h : t.exposed = u.exposed) : t.readByte a = u.readByte a :=
    eq_of_exposed_eq (fun s => s.readByte a) (fun _ => rfl) h
  cases (coreStep_cases hstep).effect with
  | registers h => exact unchanged h
  | result y _ _ h => exact (unchanged h).trans rfl
  | write b v hsite h =>
    rw [unchanged h]
    exact State.readByte_memWrite_outside v fun g hg heq => ha (heq ▸ hsite.mem_footprint hinv.context hg)
  | busError b _ h => rw [h]; rfl
  | complete code h => rw [h]; rfl

end Sys2Proof.Machine
end

section
/-! The invariant: the part of it that a step of the core hands to the FSM state it enters, and the states that the host and
reset make (R94 to R98, R120). -/

namespace Sys2Proof.Machine

variable {s t : State}

/-! ### The FSM state that a step enters -/

/-- The FSM is not idle, and the registers that the FSM state rests on fit it (R94). -/
structure State.Running (s : State) : Prop where
  active : s.fsm ≠ .idle
  ba_lt : s.ba.toNat < 2 ^ s.aw
  context : s.contextFits

theorem running_complete {code : ErrCode} (hfsm : s.fsm = .complete code) (hba : s.ba.toNat < 2 ^ s.aw) : s.Running :=
  ⟨by simp [hfsm], hba, State.contextFits_iff.mpr (by simp [hfsm])⟩

theorem running_raise (code : ErrCode) (hba : s.ba.toNat < 2 ^ s.aw) : (raise code s).Running :=
  running_complete (raise_fsm code s) hba

theorem running_busError (a : Nat) (hba : s.ba.toNat < 2 ^ s.aw) : (busError a s).Running :=
  running_complete (code := .busError) rfl hba

theorem running_blocks (hfsm : s.fsm = .load ∨ s.fsm = .xform ∨ s.fsm = .store) (hba : s.ba.toNat < 2 ^ s.aw)
    (hcontext : s.blockContext) : s.Running := by
  refine ⟨?_, hba, State.contextFits_iff.mpr ⟨fun _ => hcontext, ?_⟩⟩ <;> rcases hfsm with h | h | h <;> simp [h]

theorem running_cycle {k : Fin 8} (hfsm : s.fsm = .cyc k) (hba : s.ba.toNat < 2 ^ s.aw) (hcontext : s.cycleContext) :
    s.Running :=
  ⟨by simp [hfsm], hba, State.contextFits_iff.mpr ⟨by simp [hfsm], fun _ _ => hcontext⟩⟩

/-- Entering a block puts its address into `BA`; the rest of the context is what the caller knows of the block. -/
theorem running_enterBlock (haw : s.aw ≤ 64) {i j : Field}
    (h : ((decode s.op = .ok .tpose ∨ decode s.op = .ok .rotblk) ∧ i = s.biI ∧ j = s.bjJ) ∨
      (decode s.op = .ok .rotmat ∧ s.matrixCheck = .none ∧ s.ph = .inBlock ∧ i.toNat < s.numBlocks ∧
        j.toNat < s.numBlocks)) : (enterBlock i j s).Running := by
  refine running_blocks (.inl rfl) (s.toNat_truncWord_lt _) ⟨?_, h⟩
  rw [enterBlock_ba, State.toNat_truncWord haw]
  exact State.trunc_of_lt (s.blockAddr_lt _ _)

theorem running_nextBlock (haw : s.aw ≤ 64) (hba : s.ba.toNat < 2 ^ s.aw) (hd : decode s.op = .ok .rotmat)
    (hcontext : s.blockContext) : (nextBlock s).Running := by
  obtain ⟨-, ⟨hblock, -⟩ | ⟨-, hcheck, hph, hci, hcj⟩⟩ := hcontext
  · rcases hblock with h | h <;> simp [hd] at h
  have hn := lt_trans s.numBlocks_lt (show 2 ^ 26 < 2 ^ 32 by decide)
  by_cases hcol : s.cj.toNat + 1 < s.numBlocks
  · rw [nextBlock_of_next_column hcol hci]
    exact running_enterBlock haw (.inr ⟨hd, hcheck, hph, hci, by rwa [toNat_add_one_of_lt hcj hn]⟩)
  · have hlastCol : s.cj.toNat + 1 = s.numBlocks := by omega
    by_cases hrow : s.ci.toNat + 1 < s.numBlocks
    · rw [nextBlock_of_next_row hlastCol hrow]
      refine running_enterBlock haw (.inr ⟨hd, hcheck, hph, by rwa [toNat_add_one_of_lt hci hn], ?_⟩)
      exact Nat.zero_lt_of_lt hci
    · rw [nextBlock_of_last hlastCol (by omega)]
      exact running_raise .none hba

theorem running_nextCycle (haw : s.aw ≤ 64) (hba : s.ba.toNat < 2 ^ s.aw) (hd : decode s.op = .ok .rotmat)
    (hcontext : s.cycleContext) : (nextCycle s).Running := by
  obtain ⟨hcycle, -⟩ | ⟨-, hcheck, hph, hn, hci, hcj⟩ := hcontext
  · simp [hd] at hcycle
  have hlt := s.numBlocks_lt
  by_cases hcol : s.cj.toNat + 1 < s.numBlocks / 2
  · rw [nextCycle_of_next_column hcol hci]
    refine running_cycle rfl hba (.inr ⟨hd, hcheck, hph, hn, hci, ?_⟩)
    exact (toNat_add_one_of_lt hcj (by omega)).trans_lt hcol
  · have hlastCol : s.cj.toNat + 1 = s.numBlocks / 2 := by omega
    by_cases hrow : s.ci.toNat + 1 < (s.numBlocks + 1) / 2
    · rw [nextCycle_of_next_row hlastCol hrow]
      refine running_cycle rfl hba (.inr ⟨hd, hcheck, hph, hn, ?_, ?_⟩)
      · exact (toNat_add_one_of_lt hci (by omega)).trans_lt hrow
      · exact Nat.zero_lt_of_lt hcj
    · rw [nextCycle_of_last hlastCol (by omega)]
      have hpos : 0 < s.numBlocks := by omega
      exact running_enterBlock (s := { s with ph := .inBlock }) haw (.inr ⟨hd, hcheck, rfl, hpos, hpos⟩)

theorem running_startCycle (hba : s.ba.toNat < 2 ^ s.aw) (hd : decode s.op = .ok .cycle4) : (startCycle s).Running := by
  by_cases hcheck : s.cycleCheck = .none
  · rw [startCycle_of_accepted hcheck]
    exact running_cycle rfl hba (.inl ⟨hd, hcheck, rfl, rfl⟩)
  · rw [startCycle_of_failed rfl hcheck]
    exact running_raise _ hba

theorem running_startMatrix (haw : s.aw ≤ 64) (hba : s.ba.toNat < 2 ^ s.aw) (hd : decode s.op = .ok .rotmat) :
    (startMatrix s).Running := by
  by_cases hcheck : s.matrixCheck = .none
  · have hpos := (State.dimN_eq_of_check hcheck).2
    by_cases hone : s.numBlocks = 1
    · rw [startMatrix_of_one_block hcheck hone]
      exact running_enterBlock (s := { s with ph := .inBlock }) haw (.inr ⟨hd, hcheck, rfl, hpos, hpos⟩)
    · rw [startMatrix_of_many_blocks hcheck hone]
      have hrows : 0 < (s.numBlocks + 1) / 2 := by omega
      have hcolumns : 0 < s.numBlocks / 2 := by omega
      exact running_cycle rfl hba (.inr ⟨hd, hcheck, rfl, (by omega : 2 ≤ s.numBlocks), hrows, hcolumns⟩)
  · rw [startMatrix_of_failed rfl hcheck]
    exact running_raise _ hba

theorem CheckStep.running (haw : s.aw ≤ 64) (hba : s.ba.toNat < 2 ^ s.aw) (h : CheckStep s t) : t.Running := by
  cases h with
  | illegal | nop => exact running_raise _ hba
  | result y => exact running_raise .none (s := { s with resultY := y }) hba
  | block hd => exact running_enterBlock haw (.inl ⟨hd, rfl, rfl⟩)
  | cycle hd => exact running_startCycle hba hd
  | matrix hd => exact running_startMatrix haw hba hd

theorem running_loadStep (hba : s.ba.toNat < 2 ^ s.aw) (hcontext : s.blockContext) (pass : Word → Word) :
    (loadStep pass s).Running := by
  rcases loadStep_cases pass s with ⟨-, h⟩ | ⟨-, h⟩ <;> rw [h]
  · refine running_blocks ?_ hba hcontext
    cases s.lastRow
    · exact .inl rfl
    · exact .inr (.inl rfl)
  · exact running_busError _ hba

theorem running_storeStep (hba : s.ba.toNat < 2 ^ s.aw) (hcontext : s.blockContext) (pass : Word → Word)
    {after : State → State}
    (hafter : ∀ u : State, u.aw = s.aw → u.op = s.op → u.ba.toNat < 2 ^ u.aw → u.blockContext → (after u).Running) :
    (storeStep pass after s).Running := by
  rcases storeStep_cases pass after s with ⟨-, h⟩ | ⟨-, h⟩ <;> rw [h]
  · split
    · exact hafter _ rfl rfl hba hcontext
    · exact running_blocks (.inr (.inr rfl)) hba hcontext
  · exact running_busError _ hba

theorem running_afterAccess (hba : s.ba.toNat < 2 ^ s.aw) (hcontext : s.cycleContext) {after : State → State}
    (hafter : (after s).Running) (k : Fin 8) : (afterAccess after k s).Running := by
  rcases afterAccess_cases after k s with ⟨-, h⟩ | ⟨-, -, h⟩ | ⟨-, -, h⟩ <;> rw [h]
  · exact running_cycle rfl hba hcontext
  · exact running_cycle rfl hba hcontext
  · exact hafter

theorem running_cycStep (hba : s.ba.toNat < 2 ^ s.aw) (hcontext : s.cycleContext) (k : Fin 8) {after : State → State}
    (hafter : ∀ u : State, u.aw = s.aw → u.op = s.op → u.ba.toNat < 2 ^ u.aw → u.cycleContext → (after u).Running) :
    (cycStep after k s).Running := by
  have goesOn (u : State) (hw : u.aw = s.aw) (ho : u.op = s.op) (hba : u.ba.toNat < 2 ^ u.aw)
      (hcontext : u.cycleContext) : (afterAccess after k u).Running :=
    running_afterAccess hba hcontext (hafter u hw ho hba hcontext) k
  rcases cycStep_cases after k s with ⟨-, -, h⟩ | ⟨-, -, h⟩ | ⟨-, h⟩ <;> rw [h]
  · cases (cycleAccess k).reg
    · exact goesOn _ rfl rfl hba hcontext
    · exact goesOn _ rfl rfl hba hcontext
  · exact goesOn _ rfl rfl hba hcontext
  · exact running_busError _ hba

/-- A step of the core changes nothing, ends the command, or leads to an FSM state whose context fits. -/
theorem CoreStep.running (hinv : s.Inv) (h : CoreStep s t) : t = s ∨ (∃ code, t = Machine.complete code s) ∨ t.Running := by
  obtain ⟨-, haw⟩ := hinv.width
  obtain ⟨-, -, hba⟩ := hinv.addresses
  obtain ⟨hblocks, hcycles⟩ := State.contextFits_iff.mp hinv.context
  cases h with
  | idle => exact .inl rfl
  | complete => exact .inr (.inl ⟨_, rfl⟩)
  | check _ hstep => exact .inr (.inr (hstep.running haw hba))
  | load hfsm pass => exact .inr (.inr (running_loadStep hba (hblocks (.inl hfsm)) pass))
  | xform hfsm => exact .inr (.inr (running_blocks (.inr (.inr rfl)) hba (hblocks (.inr (.inl hfsm)))))
  | storeBlock hfsm pass =>
    exact .inr (.inr (running_storeStep hba (hblocks (.inr (.inr hfsm))) pass fun _ _ _ hba _ => running_raise .none hba))
  | storeMatrix hfsm pass hd =>
    exact .inr (.inr (running_storeStep hba (hblocks (.inr (.inr hfsm))) pass fun _ hw ho hba hcontext =>
      running_nextBlock (hw ▸ haw) hba (ho ▸ hd) hcontext))
  | cycle hfsm =>
    exact .inr (.inr (running_cycStep hba (hcycles _ hfsm) _ fun _ _ _ hba _ => running_raise .none hba))
  | matrix hfsm hd =>
    exact .inr (.inr (running_cycStep hba (hcycles _ hfsm) _ fun _ hw ho hba hcontext =>
      running_nextCycle (hw ▸ haw) hba (ho ▸ hd) hcontext))

/-! ### The invariant after a step of the core -/

/-- Memory in canonical form, with no byte past the address space: the two parts of the invariant about memory. -/
def Memory.Fits (m : Memory) (aw : Nat) : Prop := m.wf ∧ ∀ c ∈ m, c.1 < 2 ^ aw

theorem Memory.Fits.writeCells {m : Memory} {aw : Nat} (h : m.Fits aw) {cells : List Host.Cell}
    (hcells : ∀ c ∈ cells, c.1 < 2 ^ aw) : (m.writeCells cells).Fits aw := by
  refine ⟨Memory.wf_writeCells h.1 cells, fun c hc => ?_⟩
  rcases Memory.mem_writeCells hc with hold | hnew
  · exact h.2 c hold
  · exact hcells c hnew

theorem State.Inv.memFits (h : s.Inv) : s.mem.Fits s.aw := ⟨h.memWf, h.memInSpace⟩

theorem State.Inv.memWrite (h : s.Inv) (a : Nat) (v : Word) : (s.memWrite a v).Inv := by
  have hmem : (s.memWrite a v).mem.Fits s.aw := by
    refine h.memFits.writeCells fun c hc => ?_
    obtain ⟨g, -, rfl⟩ := List.mem_map.mp hc
    exact s.trunc_lt _
  exact ⟨h.width, hmem.1, hmem.2, h.addresses, h.busyIff, h.quiet, h.codeKnown, h.context⟩

theorem bits_le_five (code : ErrCode) : code.bits.toNat ≤ 5 := by cases code <;> decide

/-- An idle machine meets the invariant when its memory and its addresses do. -/
theorem inv_of_idle (hfsm : s.fsm = .idle) (hbusy : s.busy = false) (width : 16 ≤ s.aw ∧ s.aw ≤ 64)
    (mem : s.mem.Fits s.aw)
    (addresses : s.baseAddr.toNat < 2 ^ s.aw ∧ s.faultAddr.toNat < 2 ^ s.aw ∧ s.ba.toNat < 2 ^ s.aw)
    (codeKnown : s.errcode.toNat ≤ 5) : s.Inv where
  width := width
  memWf := mem.1
  memInSpace := mem.2
  addresses := addresses
  busyIff := by simp [hfsm, hbusy]
  quiet := by simp [hbusy]
  codeKnown := codeKnown
  context := State.contextFits_iff.mpr (by simp [hfsm])

theorem State.Inv.complete (h : s.Inv) (code : ErrCode) : (complete code s).Inv :=
  inv_of_idle rfl rfl h.width h.memFits h.addresses (bits_le_five code)

/-- A new register content that fits, and the exposed part of a state that meets the invariant. -/
theorem State.Inv.of_exposed (h : s.Inv) (hbusy : s.busy = true) (hexposed : t.exposed = s.exposed) (hrun : t.Running) :
    t.Inv := by
  have kept {α : Type} (f : State → α) (hf : ∀ s, f s.exposed = f s) : f t = f s := eq_of_exposed_eq f hf hexposed
  have haw := aw_of_exposed_eq hexposed
  have hmem := mem_of_exposed_eq hexposed
  have hbase := kept State.baseAddr fun _ => rfl
  have hfault := kept State.faultAddr fun _ => rfl
  have hcode := kept State.errcode fun _ => rfl
  have hbusy' := kept State.busy fun _ => rfl
  have hdone := kept State.done fun _ => rfl
  obtain ⟨hbaseLt, hfaultLt, -⟩ := h.addresses
  refine ⟨haw ▸ h.width, hmem ▸ h.memWf, ?_, ⟨?_, ?_, hrun.ba_lt⟩, ?_, ?_, hcode ▸ h.codeKnown, hrun.context⟩
  · rw [hmem, haw]; exact h.memInSpace
  · rw [hbase, haw]; exact hbaseLt
  · rw [hfault, haw]; exact hfaultLt
  · rw [hbusy']; exact iff_of_true hbusy hrun.active
  · rw [hdone, hcode]; exact fun _ => h.quiet hbusy

theorem State.Inv.busError (h : s.Inv) (hbusy : s.busy = true) {a : Nat} (ha : a < 2 ^ s.aw) : (busError a s).Inv := by
  obtain ⟨hbase, -, hba⟩ := h.addresses
  have hrun := running_busError a hba
  have hfault : (BitVec.ofNat 64 a).toNat < 2 ^ s.aw :=
    lt_of_le_of_lt (by rw [BitVec.toNat_ofNat]; exact Nat.mod_le _ _) ha
  exact ⟨h.width, h.memWf, h.memInSpace, ⟨hbase, hfault, hba⟩, iff_of_true hbusy hrun.active, h.quiet, h.codeKnown,
    hrun.context⟩

theorem State.Inv.coreStep (h : s.Inv) (hstep : CoreStep s t) : t.Inv := by
  rcases hstep.running h with rfl | ⟨code, rfl⟩ | hrun
  · exact h
  · exact h.complete code
  by_cases hidle : s.fsm = .idle
  · cases hstep with
    | idle => exact h
    | check hfsm | load hfsm | xform hfsm | storeBlock hfsm | storeMatrix hfsm | cycle hfsm | matrix hfsm | complete hfsm =>
      simp [hidle] at hfsm
  have hbusy := h.busyIff.mpr hidle
  cases hstep.effect with
  | registers hexposed => exact h.of_exposed hbusy hexposed hrun
  | result y _ _ hexposed =>
    have hresult : { s with resultY := y }.Inv :=
      ⟨h.width, h.memWf, h.memInSpace, h.addresses, h.busyIff, h.quiet, h.codeKnown, h.context⟩
    exact hresult.of_exposed hbusy hexposed hrun
  | write a v _ hexposed => exact (h.memWrite a v).of_exposed hbusy hexposed hrun
  | busError a ha heq => exact heq ▸ h.busError hbusy ha
  | complete code heq => exact heq ▸ h.complete code

/-! ### The invariant after a transition of the host, and after reset -/

/-- The invariant says nothing of what is scheduled. -/
theorem State.Inv.withSchedule (h : s.Inv) (rest : List Event) : { s with schedule := rest }.Inv :=
  ⟨h.width, h.memWf, h.memInSpace, h.addresses, h.busyIff, h.quiet, h.codeKnown, h.context⟩

/-- A write that only an idle core takes: a busy core drops it, and an idle one is left idle with a new operand. -/
theorem State.Inv.whenIdle (h : s.Inv) {write : State → State} (hwrite : s.fsm = .idle → s.busy = false → (write s).Inv) :
    (whenIdle write s).Inv := by
  cases hbusy : s.busy with
  | true =>
    rw [whenIdle_of_busy hbusy]
    exact ⟨h.width, h.memWf, h.memInSpace, h.addresses, h.busyIff, h.quiet, h.codeKnown, h.context⟩
  | false =>
    rw [whenIdle_of_idle hbusy]
    exact hwrite (not_not.mp fun hfsm => by simp [h.busyIff.mpr hfsm] at hbusy) hbusy

theorem State.Inv.issue (h : s.Inv) (w : Word) : (issue w s).Inv where
  width := h.width
  memWf := h.memWf
  memInSpace := h.memInSpace
  addresses := h.addresses
  busyIff := iff_of_true rfl (by simp)
  quiet := fun _ => ⟨rfl, rfl⟩
  codeKnown := by simp
  context := State.contextFits_iff.mpr (by simp)

theorem State.Inv.writeStatus (h : s.Inv) (v : Word) : (writeStatus v s).Inv := by
  refine ⟨h.width, h.memWf, h.memInSpace, h.addresses, h.busyIff, fun hbusy => ?_, h.codeKnown, h.context⟩
  obtain ⟨hdone, hcode⟩ := h.quiet hbusy
  exact ⟨by simp [Machine.writeStatus, hdone], hcode⟩

theorem State.Inv.csrWrite (h : s.Inv) (off : CsrOffset) (v : Word) : (csrWrite off v s).Inv := by
  cases hoff : csrAt off with
  | none => rwa [csrWrite_of_unmapped hoff]
  | some c =>
    obtain rfl := csrAt_eq_some_iff.mp hoff
    rw [csrWrite_offsetOf]
    cases c with
    | cmd => exact h.whenIdle fun _ _ => h.issue v
    | status => exact h.writeStatus v
    | base =>
      obtain ⟨-, hfault, hba⟩ := h.addresses
      rw [writeCsr]
      refine h.whenIdle fun hfsm hbusy => ?_
      exact inv_of_idle hfsm hbusy h.width h.memFits ⟨s.toNat_truncWord_lt _, hfault, hba⟩ h.codeKnown
    | dim | stride | bi | bj | operand =>
      rw [writeCsr]
      refine h.whenIdle fun hfsm hbusy => ?_
      exact inv_of_idle hfsm hbusy h.width h.memFits h.addresses h.codeKnown
    | result | faultAddr => exact h

theorem outsideAccess_cases {a count : Nat} {k : State → State} (h : outsideAccess a count k s = .next t) :
    a + count ≤ 2 ^ s.aw ∧ t = k s := by
  unfold outsideAccess at h
  split at h
  · cases h
  · split at h
    · cases h
    · cases h
      exact ⟨by omega, rfl⟩

theorem mem_cellsFrom_bounds {a : Nat} {bytes : List Byte} {c : Host.Cell} (hc : c ∈ cellsFrom a bytes) :
    a ≤ c.1 ∧ c.1 < a + bytes.length := by
  induction bytes generalizing a with
  | nil => simp [cellsFrom] at hc
  | cons b rest ih =>
    rw [List.length_cons]
    rcases List.mem_cons.mp hc with rfl | hrest
    · exact ⟨le_rfl, by dsimp only; omega⟩
    · have := ih hrest
      omega

theorem State.Inv.outsideWrite (h : s.Inv) {a : Nat} {bytes : List Byte} (hstep : outsideWrite a bytes s = .next t) :
    t.Inv := by
  obtain ⟨hspace, rfl⟩ := outsideAccess_cases hstep
  have hmem : (s.mem.writeCells (cellsFrom a bytes)).Fits s.aw :=
    h.memFits.writeCells fun c hc => lt_of_lt_of_le (mem_cellsFrom_bounds hc).2 hspace
  exact ⟨h.width, hmem.1, hmem.2, h.addresses, h.busyIff, h.quiet, h.codeKnown, h.context⟩

theorem State.Inv.outsideRead (h : s.Inv) {a count : Nat} (hstep : outsideRead a count s = .next t) : t.Inv := by
  obtain ⟨-, rfl⟩ := outsideAccess_cases hstep
  exact ⟨h.width, h.memWf, h.memInSpace, h.addresses, h.busyIff, h.quiet, h.codeKnown, h.context⟩

theorem State.lt_of_mem_rectangle {a start rows columns : Nat} (ha : a ∈ s.rectangle start rows columns) : a < 2 ^ s.aw := by
  obtain ⟨r, -, g, -, rfl⟩ := State.mem_rectangle.mp ha
  exact s.trunc_lt _

/-- A footprint is made of addresses: every command's is put together from rectangles (R45). -/
theorem State.lt_of_mem_footprint {a : Nat} (ha : a ∈ s.footprint) : a < 2 ^ s.aw := by
  cases hd : decode s.op with
  | error e => simp [State.footprint, hd] at ha
  | ok i =>
    rw [State.footprint_of_decode hd] at ha
    cases i with
    | nop | frev | brev | baddr => simp [State.instrFootprint] at ha
    | tpose | rotblk => exact State.lt_of_mem_rectangle ha
    | cycle4 =>
      rw [State.instrFootprint] at ha
      split at ha
      · simp only [List.mem_append] at ha
        rcases ha with ((ha | ha) | ha) | ha <;> exact State.lt_of_mem_rectangle ha
      · cases ha
    | rotmat =>
      rw [State.instrFootprint] at ha
      split at ha
      · exact State.lt_of_mem_rectangle ha
      · cases ha

theorem State.mem_footprint_of_guarded {a : Nat} (ha : a ∈ s.guarded) : a ∈ s.footprint := by
  rw [State.guarded] at ha
  split at ha
  · exact ha
  · cases ha

theorem State.guarded_of_idle (h : s.busy = false) : s.guarded = [] := by simp [State.guarded, h]

theorem State.guarded_of_busy (h : s.busy = true) : s.guarded = s.footprint := by simp [State.guarded, h]

theorem State.Inv.resetCore (h : s.Inv) : (resetCore s).Inv := by
  have hmem : (s.mem.writeCells (s.guarded.map fun a => (a, Config.freeByte s.draws a))).Fits s.aw := by
    refine h.memFits.writeCells fun c hc => ?_
    obtain ⟨a, ha, rfl⟩ := List.mem_map.mp hc
    exact State.lt_of_mem_footprint (State.mem_footprint_of_guarded ha)
  have hzero : (0 : Word).toNat < 2 ^ s.aw := Nat.two_pow_pos _
  exact inv_of_idle rfl rfl h.width hmem ⟨hzero, hzero, s.toNat_truncWord_lt _⟩ (Nat.zero_le 5)

end Sys2Proof.Machine
end

section
/-! The statements about the invariant, about reset and about the writes from outside (10_state.md, 44_control.md,
70_reset_and_hazards.md). -/

namespace Sys2Proof.Machine

variable {s t : State}

/-! ### The invariant -/

/-- Settles O46: the reset state is idle, its memory is empty and its addresses are 0. -/
theorem resetMeetsInvariant : Obligations.ResetMeetsInvariant :=
  inv_of_idle rfl rfl (by decide) ⟨reset_memory_wf, nofun⟩
    ⟨Nat.two_pow_pos _, Nat.two_pow_pos _, Nat.two_pow_pos _⟩ (Nat.zero_le 5)

/-- Settles O45: a step of the core by its effect and the FSM state it enters, a transition of the host by what it writes,
and reset because it leaves the machine idle. -/
theorem everyStepKeepsInvariant : Obligations.EveryStepKeepsInvariant := by
  intro s t hinv hstep
  cases hschedule : s.schedule with
  | nil => exact hinv.coreStep (coreStep_cases (step_of_schedule_nil hschedule ▸ hstep))
  | cons e rest =>
    have hrest := hinv.withSchedule rest
    rw [step_of_schedule_cons hschedule] at hstep
    cases e with
    | core => exact hrest.coreStep (coreStep_cases hstep)
    | memRead a count => exact hrest.outsideRead hstep
    | memWrite a bytes => exact hrest.outsideWrite hstep
    | csrWrite off v =>
      cases hstep
      exact hrest.csrWrite off v
    | reset =>
      cases hstep
      exact hrest.resetCore
    | csrRead off | wait =>
      cases hstep
      exact ⟨hinv.width, hinv.memWf, hinv.memInSpace, hinv.addresses, hinv.busyIff, hinv.quiet, hinv.codeKnown,
        hinv.context⟩

theorem State.blockContext.exists_decode (h : s.blockContext) : ∃ i, Instr.worksOnBlocks i ∧ decode s.op = .ok i := by
  obtain ⟨-, ⟨hd | hd, -⟩ | ⟨hd, -⟩⟩ := h
  · exact ⟨.tpose, .inl rfl, hd⟩
  · exact ⟨.rotblk, .inr (.inl rfl), hd⟩
  · exact ⟨.rotmat, .inr (.inr rfl), hd⟩

theorem State.cycleContext.exists_decode (h : s.cycleContext) : ∃ i, (i = .cycle4 ∨ i = .rotmat) ∧ decode s.op = .ok i := by
  obtain ⟨hd, -⟩ | ⟨hd, -⟩ := h
  · exact ⟨.cycle4, .inl rfl, hd⟩
  · exact ⟨.rotmat, .inr rfl, hd⟩

/-- Every command has a check step (R96). -/
theorem exists_exec_check (hcheck : s.fsm = .check) (i : Instr) : ∃ t, exec i s = .next t := by
  cases i with
  | nop => exact ⟨_, exec_nop_check hcheck⟩
  | frev => exact ⟨_, exec_frev_check hcheck⟩
  | brev => exact ⟨_, exec_brev_check hcheck⟩
  | baddr => exact ⟨_, exec_baddr_check hcheck⟩
  | tpose => exact ⟨_, exec_tpose_check hcheck⟩
  | rotblk => exact ⟨_, exec_rotblk_check hcheck⟩
  | cycle4 => exact ⟨_, exec_cycle4_check hcheck⟩
  | rotmat => exact ⟨_, exec_rotmat_check hcheck⟩

/-- Settles O44: in LOAD, XFORM, STORE and CYC the invariant says that `op` is a command that has a step there (R94). -/
theorem coreStepNeverStops : Obligations.CoreStepNeverStops := by
  intro s hinv
  obtain ⟨hblocks, hcycles⟩ := State.contextFits_iff.mp hinv.context
  cases hfsm : s.fsm with
  | idle => exact ⟨s, coreStep_idle hfsm⟩
  | complete code => exact ⟨_, coreStep_complete hfsm⟩
  | check =>
    cases hd : decode s.op with
    | error e => exact ⟨_, coreStep_check_of_illegal hfsm hd⟩
    | ok i =>
      rw [coreStep_of_decode (by simp [hfsm]) hd]
      exact exists_exec_check hfsm i
  | load =>
    obtain ⟨i, hi, hd⟩ := (hblocks (.inl hfsm)).exists_decode
    exact ⟨_, (coreStep_of_decode (by simp [hfsm]) hd).trans (exec_load_eq hi hfsm)⟩
  | xform =>
    obtain ⟨i, hi, hd⟩ := (hblocks (.inr (.inl hfsm))).exists_decode
    exact ⟨_, (coreStep_of_decode (by simp [hfsm]) hd).trans (exec_xform_eq hi hfsm)⟩
  | store =>
    obtain ⟨i, hi, hd⟩ := (hblocks (.inr (.inr hfsm))).exists_decode
    exact ⟨_, (coreStep_of_decode (by simp [hfsm]) hd).trans (exec_store_eq hi hfsm)⟩
  | cyc k =>
    obtain ⟨i, hi, hd⟩ := (hcycles k hfsm).exists_decode
    exact ⟨_, (coreStep_of_decode (by simp [hfsm]) hd).trans (exec_cyc_eq hi hfsm)⟩

/-! ### Reset -/

/-- Reset writes to guarded bytes only (R121). -/
theorem readByte_resetCore {a : Nat} (ha : a ∉ s.guarded) : (resetCore s).readByte a = s.readByte a := by
  refine Memory.readByte_writeCells_of_not_mem s.mem fun c hc heq => ha ?_
  obtain ⟨b, hb, rfl⟩ := List.mem_map.mp hc
  exact heq ▸ hb

/-- Settles O48: reset ends in `clearCsrs`, and an idle machine guards no byte. -/
theorem resetAbandonsCommand : Obligations.ResetAbandonsCommand := by
  intro s rest h
  refine ⟨resetCore { s with schedule := rest }, step_of_schedule_cons h, State.csrRead_clearCsrs _, rfl, rfl, rfl, rfl,
    fun hidle a => ?idle, fun a ha => ?outside⟩
  case idle =>
    refine readByte_resetCore (s := { s with schedule := rest }) ?_
    rw [State.guarded_of_idle (s := { s with schedule := rest }) hidle]
    exact List.not_mem_nil
  case outside =>
    exact readByte_resetCore (s := { s with schedule := rest }) fun hguarded => ha (State.mem_footprint_of_guarded hguarded)

/-! ### Writes from outside -/

/-- Bytes written from `a` on are read back there, and nothing else changes. -/
theorem Memory.readByte_writeCells_cellsFrom (m : Memory) (a : Nat) (bytes : List Byte) (b : Nat) :
    (m.writeCells (cellsFrom a bytes)).readByte b =
      if a ≤ b ∧ b < a + bytes.length then bytes.getD (b - a) 0 else m.readByte b := by
  induction bytes generalizing m a with
  | nil =>
    rw [if_neg (by simp)]
    rfl
  | cons x rest ih =>
    have hhead : m.writeCells (cellsFrom a (x :: rest)) = (m.writeByte a x).writeCells (cellsFrom (a + 1) rest) := rfl
    rw [hhead, ih, Memory.readByte_writeByte, List.length_cons]
    by_cases hb : b = a
    · rw [if_neg (by omega), if_pos hb, if_pos (by omega), hb, Nat.sub_self]
      rfl
    · rw [if_neg hb]
      by_cases hin : a + 1 ≤ b ∧ b < a + 1 + rest.length
      · rw [if_pos hin, if_pos (by omega), show b - a = b - (a + 1) + 1 by omega, List.getD_cons_succ]
      · rw [if_neg hin, if_neg (by omega)]

/-- An access from outside is refused exactly when it meets a guarded byte (R127). -/
theorem any_guarded_iff {a count : Nat} :
    ((List.range count).any fun g => s.guarded.contains (a + g)) = true ↔ ∃ g < count, a + g ∈ s.guarded := by
  simp

/-- Settles O49: R127 asks `guarded`, which is the footprint of a busy core and nothing of an idle one. -/
theorem outsideWritesRespectFootprint : Obligations.OutsideWritesRespectFootprint := by
  intro s a bytes rest h hspace
  have hstep : step s = outsideWrite a bytes { s with schedule := rest } := step_of_schedule_cons h
  have hguarded : { s with schedule := rest }.guarded = s.guarded := rfl
  have hinside : ¬ 2 ^ s.aw < a + bytes.length := Nat.not_lt.mpr hspace
  rw [hstep, outsideWrite, outsideAccess, if_neg hinside, hguarded]
  refine ⟨fun hbusy hmeets => ?refused, fun hclear => ?performed⟩
  case refused =>
    rw [← State.guarded_of_busy hbusy] at hmeets
    rw [if_pos (any_guarded_iff.mpr hmeets)]
  case performed =>
    have hfree : ¬ ∃ g < bytes.length, a + g ∈ s.guarded := by
      rintro ⟨g, hg, hmem⟩
      rcases hclear with hidle | hout
      · rw [State.guarded_of_idle hidle] at hmem
        cases hmem
      · exact hout g hg (State.mem_footprint_of_guarded hmem)
    rw [if_neg fun hany => hfree (any_guarded_iff.mp hany)]
    exact ⟨_, rfl, rfl, s.mem.readByte_writeCells_cellsFrom a bytes⟩

end Sys2Proof.Machine
end

section
/-! Words of memory that share no byte: rows written one after the other, the rows of a block, the row words of the blocks of
a matrix (R66, R75, R90). -/

namespace Sys2Proof.Machine

variable {s t : State}

/-! ### Words that share no byte -/

/-- The words at `a` and at `b` share no byte. -/
def State.Apart (s : State) (a b : Nat) : Prop := ∀ g < 8, ∀ h < 8, s.trunc (a + g) ≠ s.trunc (b + h)

theorem State.memRead_memWrite_of_apart {a b : Nat} (h : s.Apart a b) (v : Word) :
    (s.memWrite b v).memRead a = s.memRead a :=
  State.memRead_congr rfl fun g hg => State.readByte_memWrite_outside v fun k hk => h g hg k hk

/-- The words `f 0`, `f 1`, … written at `addr 0`, `addr 1`, …, `k` of them. -/
def State.writeRows (s : State) (addr : Nat → Nat) (f : Nat → Word) : Nat → State
  | 0 => s
  | k + 1 => (s.writeRows addr f k).memWrite (addr k) (f k)

/-- Writing rows changes memory and nothing else. -/
theorem State.writeRows_eq (s : State) (addr : Nat → Nat) (f : Nat → Word) (k : Nat) :
    s.writeRows addr f k = { s with mem := (s.writeRows addr f k).mem } := by
  induction k with
  | zero => rfl
  | succ k ih => rw [State.writeRows, ih]; rfl

/-- The rows written depend on memory and the address width alone. -/
theorem State.writeRows_mem_congr (hmem : t.mem = s.mem) (haw : t.aw = s.aw) (addr : Nat → Nat) (f : Nat → Word)
    (k : Nat) : (t.writeRows addr f k).mem = (s.writeRows addr f k).mem := by
  induction k with
  | zero => exact hmem
  | succ k ih =>
    have htrunc : (t.writeRows addr f k).trunc = (s.writeRows addr f k).trunc := by
      rw [State.writeRows_eq t, State.writeRows_eq s]
      exact funext (State.trunc_congr haw)
    rw [State.writeRows, State.writeRows, memWrite_mem, memWrite_mem, ih, htrunc]

section
variable {addr : Nat → Nat} {f : Nat → Word} {k : Nat}

@[simp] theorem State.writeRows_aw : (s.writeRows addr f k).aw = s.aw := by rw [State.writeRows_eq]

theorem State.readByte_writeRows_outside {b : Nat} (h : ∀ r < k, ∀ g < 8, b ≠ s.trunc (addr r + g)) :
    (s.writeRows addr f k).readByte b = s.readByte b := by
  induction k with
  | zero => rfl
  | succ k ih =>
    rw [State.writeRows, State.readByte_memWrite_outside]
    · exact ih fun r hr => h r (by omega)
    · intro g hg
      rw [State.trunc_congr State.writeRows_aw]
      exact h k (by omega) g hg

theorem State.memRead_writeRows_of_apart {a : Nat} (h : ∀ r < k, s.Apart a (addr r)) :
    (s.writeRows addr f k).memRead a = s.memRead a :=
  State.memRead_congr State.writeRows_aw fun g hg => State.readByte_writeRows_outside fun r hr k hk => h r hr g hg k hk

theorem State.memRead_writeRows_last (haw : 3 ≤ s.aw) : (s.writeRows addr f (k + 1)).memRead (addr k) = f k :=
  State.memRead_memWrite (by rwa [State.writeRows_aw]) _ _

/-- Rows that share no byte keep what was written. -/
theorem State.memRead_writeRows (haw : 3 ≤ s.aw) (h : ∀ p < k, ∀ q < k, p ≠ q → s.Apart (addr p) (addr q)) {r : Nat}
    (hr : r < k) : (s.writeRows addr f k).memRead (addr r) = f r := by
  induction k with
  | zero => omega
  | succ k ih =>
    by_cases hlast : r = k
    · subst hlast
      exact State.memRead_writeRows_last haw
    · have hapart : (s.writeRows addr f k).Apart (addr r) (addr k) := fun g hg g' hg' => by
        rw [State.trunc_congr State.writeRows_aw, State.trunc_congr State.writeRows_aw]
        exact h r hr k (by omega) hlast g hg g' hg'
      rw [State.writeRows, State.memRead_memWrite_of_apart hapart]
      exact ih (fun p hp q hq => h p (by omega) q (by omega)) (by omega)

end

/-! ### The rows of a block that lies flat -/

/-- A byte in rows of stride `S`, by its row and its place in it. -/
theorem row_place_unique {S r q g h : Nat} (hg : g < S) (hh : h < S) (heq : r * S + g = q * S + h) : r = q ∧ g = h := by
  have hdiv {r g : Nat} (hg : g < S) : (r * S + g) / S = r := by
    rw [Nat.add_comm, Nat.add_mul_div_right _ _ (by omega), Nat.div_eq_of_lt hg, Nat.zero_add]
  have hrow : r = q := by rw [← hdiv (r := r) hg, heq, hdiv hh]
  subst hrow
  exact ⟨rfl, by omega⟩

theorem State.trunc_row_of_flat {A : Nat} (h : s.blockLiesFlat A) {r g : Nat} (hr : r < 64) (hg : g < 8) :
    s.trunc (s.rowAddr A r + g) = A + (r * s.strideS.toNat + g) := by
  obtain ⟨-, hspace⟩ := h
  have hle : r * s.strideS.toNat ≤ 63 * s.strideS.toNat := Nat.mul_le_mul_right _ (by omega)
  rw [State.trunc_rowAddr_add, State.trunc_of_lt (by omega), Nat.add_assoc]

/-- The rows of a block that lies flat share no byte. -/
theorem State.rows_apart_of_flat {A : Nat} (h : s.blockLiesFlat A) {p q : Nat} (hp : p < 64) (hq : q < 64)
    (hne : p ≠ q) : s.Apart (s.rowAddr A p) (s.rowAddr A q) := by
  intro g hg k hk heq
  rw [State.trunc_row_of_flat h hp hg, State.trunc_row_of_flat h hq hk] at heq
  exact hne (row_place_unique (lt_of_lt_of_le hg h.1) (lt_of_lt_of_le hk h.1) (Nat.add_left_cancel heq)).1

/-! ### The row words of a matrix that lies flat -/

/-- The address of row `r` of the block at grid cell `p` (R76). -/
def State.cellAddr (s : State) (p : Nat × Nat) (r : Nat) : Nat := s.rowAddr (s.blockAddr p.1 p.2) r

/-- The word in row `r` of the block at grid cell `p`. -/
def State.cellWord (s : State) (p : Nat × Nat) (r : Nat) : Word := s.memRead (s.cellAddr p r)

/-- `p` is a cell of the block grid. -/
abbrev State.InGrid (s : State) (p : Nat × Nat) : Prop := p.1 < s.numBlocks ∧ p.2 < s.numBlocks

/-- A matrix of which no address sum passes `2^AW`, with a valid dimension and stride (R78, R79, R90). -/
structure State.FlatMatrix (s : State) : Prop where
  check : s.matrixCheck = .none
  width : 3 ≤ s.aw
  flat : s.matrixLiesFlat

/-- In a flat matrix nothing is truncated: byte `g` of a row word stands in matrix row `64*p.1 + r`, at byte `8*p.2 + g`. -/
theorem State.FlatMatrix.trunc_cellAddr (h : s.FlatMatrix) {p : Nat × Nat} (hp : s.InGrid p) {r g : Nat} (hr : r < 64)
    (hg : g < 8) :
    s.trunc (s.cellAddr p r + g) = s.baseAddr.toNat + ((64 * p.1 + r) * s.strideS.toNat + (8 * p.2 + g)) := by
  have hflat := h.flat
  obtain ⟨hdim, -⟩ := State.dimN_eq_of_check h.check
  have hrow : (64 * p.1 + r) * s.strideS.toNat ≤ (s.dimN.toNat - 1) * s.strideS.toNat :=
    Nat.mul_le_mul_right _ (by have := hp.1; omega)
  have hcolumn : 8 * p.2 + g < s.dimN.toNat / 8 := by have := hp.2; omega
  unfold State.matrixLiesFlat at hflat
  rw [State.cellAddr, State.trunc_rowAddr_add, State.trunc_blockAddr_row_add, Nat.add_assoc]
  exact State.trunc_of_lt (by omega)

/-- Different rows of different blocks share no byte. -/
theorem State.FlatMatrix.cells_apart (h : s.FlatMatrix) {p q : Nat × Nat} (hp : s.InGrid p) (hq : s.InGrid q)
    {r k : Nat} (hr : r < 64) (hk : k < 64) (hne : ¬(p = q ∧ r = k)) : s.Apart (s.cellAddr p r) (s.cellAddr q k) := by
  intro g hg g' hg' heq
  rw [h.trunc_cellAddr hp hr hg, h.trunc_cellAddr hq hk hg'] at heq
  have hstride := State.stride_of_check h.check
  obtain ⟨hrow, hplace⟩ := row_place_unique (S := s.strideS.toNat) (by have := hp.2; omega) (by have := hq.2; omega)
    (Nat.add_left_cancel heq)
  exact hne ⟨Prod.ext (by omega) (by omega), by omega⟩

/-- A row word written in a flat matrix is read back there, and no other row word changes. -/
theorem State.FlatMatrix.cellWord_memWrite (h : s.FlatMatrix) {p q : Nat × Nat} (hp : s.InGrid p) (hq : s.InGrid q)
    {r k : Nat} (hr : r < 64) (hk : k < 64) (v : Word) :
    (s.memWrite (s.cellAddr q k) v).cellWord p r = if p = q ∧ r = k then v else s.cellWord p r := by
  have haddr : (s.memWrite (s.cellAddr q k) v).cellAddr p r = s.cellAddr p r := rfl
  rw [State.cellWord, haddr]
  split
  · next heq =>
    obtain ⟨rfl, rfl⟩ := heq
    exact State.memRead_memWrite h.width _ v
  · next hne => exact State.memRead_memWrite_of_apart (h.cells_apart hp hq hr hk hne) v

/-- Each block of a flat matrix lies flat. -/
theorem State.FlatMatrix.blockLiesFlat (h : s.FlatMatrix) {p : Nat × Nat} (hp : s.InGrid p) :
    s.blockLiesFlat (s.blockAddr p.1 p.2) := by
  obtain ⟨hrow, hcolumn⟩ := hp
  obtain ⟨hdim, hpos⟩ := State.dimN_eq_of_check h.check
  have hstride := State.stride_of_check h.check
  have hflat := h.flat
  unfold State.matrixLiesFlat at hflat
  have hrows : (64 * p.1 + 63) * s.strideS.toNat ≤ (s.dimN.toNat - 1) * s.strideS.toNat :=
    Nat.mul_le_mul_right _ (by omega)
  have hsplit : (64 * p.1 + 63) * s.strideS.toNat = p.1 * 64 * s.strideS.toNat + 63 * s.strideS.toNat := by ring
  refine ⟨by omega, ?_⟩
  rw [State.blockAddr_eq, State.trunc_of_lt (by omega)]
  omega

/-- The bits of a block are those of its row words (R42). -/
theorem State.blockBit_eq_cellWord (s : State) (p : Nat × Nat) (r : Nat) {c : Nat} (hc : c < 64) :
    s.blockBit (s.blockAddr p.1 p.2) r c = (s.cellWord p r).getLsbD (c ^^^ 7) :=
  (s.getLsbD_rowWord (s.blockAddr p.1 p.2) r hc).symm

end Sys2Proof.Machine
end

section
/-! One whole block: the 129 steps from LOAD(0) to the last STORE (R71, R72, R98), and the words they leave. -/

namespace Sys2Proof.Machine

variable {s t : State} {i : Instr}

/-! ### What the steps inside a block or a 4-cycle leave alone -/

/-- The state with all blanked that the steps inside one block or one 4-cycle may change. -/
def State.place (s : State) : State :=
  { s with fsm := .idle, row := 0, brf := Vector.replicate 64 0, tmp := 0, dr := 0, mem := [] }

/-- The state with all blanked that the steps between the check step and the COMPLETE step of a command without errors may
change. -/
def State.frame (s : State) : State := { s.exposed with mem := [] }

theorem eq_of_place_eq {α : Type} (f : State → α) (hf : ∀ s, f s.place = f s) (h : t.place = s.place) : f t = f s := by
  rw [← hf t, h, hf]

theorem eq_of_frame_eq {α : Type} (f : State → α) (hf : ∀ s, f s.frame = f s) (h : t.frame = s.frame) : f t = f s := by
  rw [← hf t, h, hf]

theorem frame_eq_of_place_eq (h : t.place = s.place) : t.frame = s.frame := eq_of_place_eq State.frame (fun _ => rfl) h

theorem frame_eq_of_exposed_eq (h : t.exposed = s.exposed) : t.frame = s.frame := by
  rw [State.frame, h, State.frame]

theorem raise_frame (code : ErrCode) (s : State) : (raise code s).frame = s.frame := rfl

/-! ### The end of a command (R97) -/

/-- A command that changed only its frame's blanks ends without a change to any CSR but `STATUS`. -/
theorem State.ended_endsFrom (h : t.frame = s.frame) (code : ErrCode) : (t.ended code).endsFrom s code := by
  have kept {α : Type} (f : State → α) (hf : ∀ s, f s.frame = f s) : f t = f s := eq_of_frame_eq f hf h
  exact ⟨rfl, rfl, rfl, rfl, kept State.ovr fun _ => rfl, kept State.dimN fun _ => rfl,
    kept State.baseAddr fun _ => rfl, kept State.strideS fun _ => rfl, kept State.biI fun _ => rfl,
    kept State.bjJ fun _ => rfl, kept State.operandX fun _ => rfl, kept State.resultY fun _ => rfl,
    kept State.faultAddr fun _ => rfl⟩

theorem stepsTo_ended (hnil : s.schedule = []) (code : ErrCode) : stepsTo 1 (raise code s) (s.ended code) :=
  stepsTo_one (s := raise code s) hnil (coreStep_complete (raise_fsm code s))

@[simp] theorem State.ended_memRead (s : State) (code : ErrCode) (a : Nat) : (s.ended code).memRead a = s.memRead a := rfl

@[simp] theorem State.ended_readByte (s : State) (code : ErrCode) (a : Nat) :
    (s.ended code).readByte a = s.readByte a := rfl

@[simp] theorem State.ended_rowAddr (s : State) (code : ErrCode) (a r : Nat) :
    (s.ended code).rowAddr a r = s.rowAddr a r := rfl

@[simp] theorem State.ended_blockBit (s : State) (code : ErrCode) (a r c : Nat) :
    (s.ended code).blockBit a r c = s.blockBit a r c := rfl

/-! ### Runs in equal pieces -/

/-- A run of `n` pieces of `m` steps each. -/
theorem stepsTo_chain {m n : Nat} {f : Nat → State} (h : ∀ k < n, stepsTo m (f k) (f (k + 1))) :
    stepsTo (n * m) (f 0) (f n) := by
  induction n with
  | zero => rw [Nat.zero_mul]; exact stepsTo_zero _
  | succ n ih =>
    rw [Nat.succ_mul]
    exact stepsTo_trans (ih fun k hk => h k (by omega)) (h n (by omega))

theorem stepsTo_of_exec (hfsm : s.fsm ≠ .idle) (hd : decode s.op = .ok i) (hnil : s.schedule = [])
    (hexec : exec i s = .next t) : stepsTo 1 s t :=
  stepsTo_one hnil ((coreStep_of_decode hfsm hd).trans hexec)

/-! ### The register file filled row by row -/

/-- `BRF` after the first `k` rows have been loaded, row `r` with `f r`. -/
def fillRegs (f : Nat → Word) (brf : BlockRegs) : Nat → BlockRegs
  | 0 => brf
  | k + 1 => (fillRegs f brf k).setIfInBounds k (f k)

theorem getElem?_fillRegs (f : Nat → Word) (brf : BlockRegs) {k r : Nat} (hr : r < k) (hk : k ≤ 64) :
    (fillRegs f brf k)[r]? = some (f r) := by
  induction k with
  | zero => omega
  | succ k ih =>
    rw [fillRegs]
    by_cases hlast : r = k
    · rw [hlast, Vector.getElem?_setIfInBounds_self_of_lt (by omega)]
    · rw [Vector.getElem?_setIfInBounds_ne (Ne.symm hlast), ih (by omega) (by omega)]

/-- After all rows nothing is left of what `BRF` held before. -/
theorem fillRegs_full (f : Nat → Word) (brf : BlockRegs) : fillRegs f brf 64 = Vector.ofFn fun r => f r.val := by
  refine Vector.ext fun r hr => ?_
  have hfilled := getElem?_fillRegs f brf hr le_rfl
  rw [Vector.getElem?_eq_getElem hr, Option.some.injEq] at hfilled
  rw [hfilled, Vector.getElem_ofFn]

/-! ### The words that go back to memory -/

/-- Row `r` of the block as command `i` stores it, when `w` are the rows as it loads them (R71, R72). -/
def turnedWord (i : Instr) (w : Nat → Word) (r : Nat) : Word :=
  storePass i ((butterflyTranspose (Vector.ofFn fun r => loadPass i (w r.val)))[r]?.getD 0)

theorem turnedWord_congr {w v : Nat → Word} (h : ∀ r < 64, w r = v r) (i : Instr) (r : Nat) :
    turnedWord i w r = turnedWord i v r := by
  have hrows : (fun r : Fin 64 => loadPass i (w r.val)) = fun r : Fin 64 => loadPass i (v r.val) :=
    funext fun r => congrArg _ (h r.val r.isLt)
  rw [turnedWord, hrows, turnedWord]

/-- The index bits that the pass on load flips. -/
def loadFlip (i : Instr) : Nat := if i = .tpose then 0 else 56

/-- The index bits that the pass on store flips. -/
def storeFlip (i : Instr) : Nat := if i = .tpose then 0 else 7

theorem flipsBits_loadPass (i : Instr) : FlipsBits (loadFlip i) (loadPass i) := by
  unfold loadFlip loadPass
  split
  · exact .id
  · exact flipsBits_preReverse

theorem flipsBits_storePass (i : Instr) : FlipsBits (storeFlip i) (storePass i) := by
  unfold storeFlip storePass
  split
  · exact .id
  · exact flipsBits_postReverse

/-- Where each bit of a stored row comes from: through the pass on store, the network and the pass on load (R69, R71). -/
theorem getLsbD_turnedWord (i : Instr) (w : Nat → Word) {r b : Nat} (hr : r < 64) (hb : b < 64) :
    (turnedWord i w r).getLsbD b = (w (b ^^^ storeFlip i ^^^ 63)).getLsbD (r ^^^ 63 ^^^ loadFlip i) := by
  have hstored : b ^^^ storeFlip i < 64 := (flipsBits_storePass i).xor_lt hb
  have hmirror {c : Nat} (hc : c < 64) : c ^^^ 63 < 64 := flipsBits_fullBitReverse.xor_lt hc
  have hnetwork := regBit_butterflyTranspose (Vector.ofFn fun r => loadPass i (w r.val)) hr hstored
  rw [turnedWord, (flipsBits_storePass i).getLsbD _ hb]
  refine hnetwork.trans ?_
  rw [regBit, Vector.getElem?_eq_getElem (hmirror hstored), Vector.getElem_ofFn]
  exact (flipsBits_loadPass i).getLsbD _ (hmirror hr)

/-- With both passes, bit `c ^ 7` of row `r` comes from row `63 - c`: in columns, column `r` of that row (R69, R72). -/
theorem getLsbD_turnedWord_of_passes (hi : i ≠ .tpose) (w : Nat → Word) {r c : Nat} (hr : r < 64) (hc : c < 64) :
    (turnedWord i w r).getLsbD (c ^^^ 7) = (w (63 - c)).getLsbD (r ^^^ 7) := by
  have hload : loadFlip i = 56 := if_neg hi
  have hstore : storeFlip i = 7 := if_neg hi
  rw [getLsbD_turnedWord i w hr (xor_seven_lt hc), hload, hstore, Nat.xor_xor_cancel_right, xor_sixty_three hc]
  simp only [Nat.xor_assoc, Nat.reduceXor]

/-- Without the passes, bit `c ^ 7` of row `r` comes from row `c ^ 56`: in columns, column `r ^ 56` of that row (R71). -/
theorem getLsbD_turnedWord_tpose (w : Nat → Word) {r c : Nat} (hr : r < 64) (hc : c < 64) :
    (turnedWord .tpose w r).getLsbD (c ^^^ 7) = (w (c ^^^ 56)).getLsbD (r ^^^ 56 ^^^ 7) := by
  have hload : loadFlip .tpose = 0 := if_pos rfl
  have hstore : storeFlip .tpose = 0 := if_pos rfl
  rw [getLsbD_turnedWord .tpose w hr (xor_seven_lt hc), hload, hstore]
  simp only [Nat.xor_zero, Nat.xor_assoc, Nat.reduceXor]

/-! ### The run of a block -/

/-- The platform accepts every row access of the current block, and nothing is scheduled before the steps of command `i`,
which works on blocks. -/
structure State.BlockReady (s : State) (i : Instr) : Prop where
  works : Instr.worksOnBlocks i
  decodes : decode s.op = .ok i
  unscheduled : s.schedule = []
  accepted : ∀ kind, ∀ r < 64, s.memOk kind (s.rowAddr s.ba.toNat r) = true

/-- The state in LOAD(k), the rows before `k` loaded. -/
def State.loading (s : State) (i : Instr) (k : Nat) : State :=
  { s with
    fsm := .load, row := BitVec.ofNat 6 k
    brf := fillRegs (fun r => loadPass i (s.memRead (s.rowAddr s.ba.toNat r))) s.brf k }

/-- The state in STORE(k), the rows before `k` stored, `w r` in row `r`. -/
def State.storing (s : State) (w : Nat → Word) (k : Nat) : State :=
  { s.writeRows (s.rowAddr s.ba.toNat) w k with fsm := .store, row := BitVec.ofNat 6 k }

/-- The word that command `i` stores in row `r` of the current block. -/
def State.blockWord (s : State) (i : Instr) (r : Nat) : Word :=
  turnedWord i (fun r => s.memRead (s.rowAddr s.ba.toNat r)) r

/-- The state in which the last row of the current block has just been stored. -/
@[irreducible] def State.blockDone (s : State) (i : Instr) : State :=
  { s.writeRows (s.rowAddr s.ba.toNat) (s.blockWord i) 64 with
    fsm := .store, row := 63
    brf := butterflyTranspose (Vector.ofFn fun r => loadPass i (s.memRead (s.rowAddr s.ba.toNat r.val))) }

theorem toNat_rowOf {k : Nat} (hk : k < 64) : (BitVec.ofNat 6 k).toNat = k := Nat.mod_eq_of_lt hk

theorem rowOf_eq_last_iff {k : Nat} (hk : k < 64) : BitVec.ofNat 6 k = 63 ↔ k = 63 := by
  rw [← BitVec.toNat_inj, toNat_rowOf hk]
  rfl

theorem State.loading_zero (hfsm : s.fsm = .load) (hrow : s.row = 0) (i : Instr) : s.loading i 0 = s := by
  show { s with fsm := Fsm.load, row := 0 } = s
  rw [← hfsm, ← hrow]

theorem loadStep_loading (h : s.BlockReady i) {k : Nat} (hk : k < 64) :
    loadStep (loadPass i) (s.loading i k) =
      if k = 63 then { s.loading i (k + 1) with fsm := .xform, row := 63 } else s.loading i (k + 1) := by
  have haddr : (s.loading i k).currentRowAddr = s.rowAddr s.ba.toNat k := by
    rw [State.currentRowAddr, State.loading, toNat_rowOf hk]
    rfl
  rw [loadStep_of_accepted (by rw [haddr]; exact h.accepted .read k hk), haddr]
  simp only [State.loading, toNat_rowOf hk, rowOf_eq_last_iff hk]
  by_cases hlast : k = 63
  · subst hlast
    rfl
  · simp only [if_neg hlast]
    rw [BitVec.ofNat_add]
    rfl

theorem stepsTo_loads (h : s.BlockReady i) (hfsm : s.fsm = .load) (hrow : s.row = 0) :
    stepsTo 64 s { s.loading i 64 with fsm := .xform, row := 63 } := by
  have hstep {k : Nat} (hk : k < 64) : stepsTo 1 (s.loading i k) (loadStep (loadPass i) (s.loading i k)) :=
    stepsTo_of_exec nofun h.decodes h.unscheduled (exec_load_eq h.works rfl)
  have hfirst : stepsTo (63 * 1) (s.loading i 0) (s.loading i 63) := stepsTo_chain fun k hk => by
    have hk' := hstep (k := k) (by omega)
    rwa [loadStep_loading h (by omega), if_neg (by omega)] at hk'
  have hlast := hstep (k := 63) (by decide)
  rw [loadStep_loading h (by decide), if_pos rfl] at hlast
  rw [State.loading_zero hfsm hrow] at hfirst
  exact stepsTo_trans hfirst hlast

theorem storeStep_storing {w : Nat → Word} (h : s.BlockReady i) (hw : ∀ r < 64, storePass i (s.brf[r]?.getD 0) = w r)
    (after : State → State) {k : Nat} (hk : k < 64) :
    storeStep (storePass i) after (s.storing w k) =
      if k = 63 then after { s.storing w (k + 1) with row := 63 } else s.storing w (k + 1) := by
  have hfixed := s.writeRows_eq (s.rowAddr s.ba.toNat) w k
  have haddr : (s.storing w k).currentRowAddr = s.rowAddr s.ba.toNat k := by
    rw [State.currentRowAddr, State.storing, hfixed, toNat_rowOf hk]
    rfl
  have haccepted : (s.storing w k).memOk .write (s.rowAddr s.ba.toNat k) = true := by
    rw [State.storing, hfixed]
    exact h.accepted .write k hk
  have hword : storePass i ((s.storing w k).brf[(s.storing w k).row.toNat]?.getD 0) = w k := by
    rw [State.storing, hfixed, toNat_rowOf hk]
    exact hw k hk
  rw [storeStep_of_accepted (by rw [haddr]; exact haccepted), haddr, hword]
  have hlast : (s.storing w k).row = 63 ↔ k = 63 := rowOf_eq_last_iff hk
  simp only [hlast]
  have hwritten : (s.storing w k).memWrite (s.rowAddr s.ba.toNat k) (w k) =
      { s.storing w (k + 1) with row := (s.storing w k).row } := rfl
  rw [hwritten]
  split
  · next heq => rw [hlast.mpr heq]
  · rw [State.storing, State.storing, BitVec.ofNat_add]
    rfl

theorem stepsTo_stores {w : Nat → Word} (h : s.BlockReady i) (hw : ∀ r < 64, storePass i (s.brf[r]?.getD 0) = w r)
    (hfsm : s.fsm = .store) (hrow : s.row = 0) :
    stepsTo 64 s (afterStore i { s.storing w 64 with row := 63 }) := by
  have hzero : s.storing w 0 = s := by
    show { s with fsm := Fsm.store, row := 0 } = s
    rw [← hfsm, ← hrow]
  have hstep {k : Nat} (hk : k < 64) :
      stepsTo 1 (s.storing w k) (storeStep (storePass i) (afterStore i) (s.storing w k)) := by
    refine stepsTo_of_exec nofun ?_ ?_ (exec_store_eq h.works rfl)
    · rw [State.storing, State.writeRows_eq]; exact h.decodes
    · rw [State.storing, State.writeRows_eq]; exact h.unscheduled
  have hfirst : stepsTo (63 * 1) (s.storing w 0) (s.storing w 63) := stepsTo_chain fun k hk => by
    have hk' := hstep (k := k) (by omega)
    rwa [storeStep_storing h hw _ (by omega), if_neg (by omega)] at hk'
  have hlast := hstep (k := 63) (by decide)
  rw [storeStep_storing h hw _ (by decide), if_pos rfl] at hlast
  rw [hzero] at hfirst
  exact stepsTo_trans hfirst hlast

/-- A block takes 64 loads, the network and 64 stores (R91). -/
theorem stepsTo_block (h : s.BlockReady i) (hfsm : s.fsm = .load) (hrow : s.row = 0) :
    stepsTo 129 s (afterStore i (s.blockDone i)) := by
  set u : State := { s.loading i 64 with fsm := .xform, row := 63 } with hu
  have hloads : stepsTo 64 s u := stepsTo_loads h hfsm hrow
  have hxform : stepsTo 1 u (xformStep u) := stepsTo_of_exec nofun h.decodes h.unscheduled (exec_xform_eq h.works rfl)
  have hready : (xformStep u).BlockReady i := ⟨h.works, h.decodes, h.unscheduled, h.accepted⟩
  have hregs : (xformStep u).brf =
      butterflyTranspose (Vector.ofFn fun r => loadPass i (s.memRead (s.rowAddr s.ba.toNat r.val))) := by
    rw [xformStep_brf, hu, State.loading, fillRegs_full]
  have hstores := stepsTo_stores (w := s.blockWord i) hready (fun r hr => by rw [hregs]; rfl) rfl rfl
  have hdone : { (xformStep u).storing (s.blockWord i) 64 with row := 63 } = s.blockDone i := by
    rw [State.storing, State.blockDone, State.writeRows_eq s, State.writeRows_eq (xformStep u),
      State.writeRows_mem_congr (s := s) (t := xformStep u) rfl rfl, hregs]
    rfl
  rw [hdone] at hstores
  exact stepsTo_trans (stepsTo_trans hloads hxform) hstores

/-- The steps of a block stay at their place. -/
theorem State.blockDone_place (s : State) (i : Instr) : (s.blockDone i).place = s.place := by
  rw [State.blockDone, State.writeRows_eq]
  rfl

theorem State.blockDone_mem (s : State) (i : Instr) :
    (s.blockDone i).mem = (s.writeRows (s.rowAddr s.ba.toNat) (s.blockWord i) 64).mem := by
  rw [State.blockDone]

theorem State.memRead_blockDone (s : State) (i : Instr) (a : Nat) :
    (s.blockDone i).memRead a = (s.writeRows (s.rowAddr s.ba.toNat) (s.blockWord i) 64).memRead a :=
  State.memRead_of_mem (s.blockDone_mem i) (by rw [State.blockDone]) a

/-- The rows of a block that lies flat hold the turned block. -/
theorem State.memRead_blockDone_row (haw : 3 ≤ s.aw) (hflat : s.blockLiesFlat s.ba.toNat) (i : Instr) {r : Nat}
    (hr : r < 64) : (s.blockDone i).memRead (s.rowAddr s.ba.toNat r) = s.blockWord i r := by
  rw [State.memRead_blockDone]
  exact State.memRead_writeRows (addr := s.rowAddr s.ba.toNat) haw
    (fun _ hp _ hq hne => State.rows_apart_of_flat hflat hp hq hne) hr

/-- The bytes outside the rows of the block stay as they are. -/
theorem State.readByte_blockDone_outside (i : Instr) {b : Nat}
    (h : ∀ r < 64, ∀ g < 8, b ≠ s.trunc (s.rowAddr s.ba.toNat r + g)) :
    (s.blockDone i).readByte b = s.readByte b := by
  rw [State.readByte, State.blockDone_mem]
  exact State.readByte_writeRows_outside h

end Sys2Proof.Machine
end

section
/-! The statements about whole runs of `ROTBLK` and `TPOSE` of 41_block_rotator.md. -/

namespace Sys2Proof.Machine

variable {s : State} {i : Instr}

/-- The state that `TPOSE` and `ROTBLK` end in when no access is refused. -/
def State.blockResult (s : State) (i : Instr) : State := ((startBlock s).blockDone i).ended .none

theorem State.toNat_ba_startBlock (haw : s.aw ≤ 64) :
    (startBlock s).ba.toNat = s.blockAddr s.biI.toNat s.bjJ.toNat := by
  rw [startBlock, enterBlock_ba, State.toNat_truncWord haw, State.trunc_of_lt (s.blockAddr_lt _ _)]

/-- A row of a block starts at a byte of its footprint. -/
theorem State.rowAddr_mem_blockFootprint (s : State) (p q : Nat) {r : Nat} (hr : r < 64) :
    s.rowAddr (s.blockAddr p q) r ∈ s.blockFootprint p q :=
  State.mem_blockFootprint.mpr ⟨r, hr, 0, by decide, (State.trunc_of_lt (s.trunc_lt _)).symm⟩

/-- The check step, the 129 steps of the block and the COMPLETE step (R91). -/
theorem stepsTo_blockResult (hi : i = .tpose ∨ i = .rotblk) (hissued : s.issued i) (haw : s.aw ≤ 64)
    (haccepted : s.footprintAccepted) : stepsTo 131 s (s.blockResult i) := by
  obtain ⟨hcheck, -, hop, hnil⟩ := hissued
  have hd : decode s.op = .ok i := hop ▸ decode_eq_ok_iff_eq_encode.mpr rfl
  have hworks : Instr.worksOnBlocks i := hi.imp_right .inl
  have hstart : exec i s = .next (startBlock s) := by
    rcases hi with rfl | rfl
    · exact exec_tpose_check hcheck
    · exact exec_rotblk_check hcheck
  have hready : (startBlock s).BlockReady i := by
    refine ⟨hworks, hd, hnil, fun kind r hr => ?_⟩
    rw [State.toNat_ba_startBlock haw]
    refine haccepted kind _ ?_
    rw [State.footprint_of_block hi hd]
    exact s.rowAddr_mem_blockFootprint _ _ hr
  have hblock := stepsTo_block hready rfl rfl
  rw [afterStore_of_ne (by rcases hi with rfl | rfl <;> decide)] at hblock
  have hschedule : ((startBlock s).blockDone i).schedule = [] :=
    (eq_of_place_eq State.schedule (fun _ => rfl) ((startBlock s).blockDone_place i)).trans hnil
  exact stepsTo_trans (stepsTo_trans (stepsTo_of_exec (by simp [hcheck]) hd hnil hstart) hblock)
    (stepsTo_ended hschedule .none)

theorem State.blockResult_frame (s : State) (i : Instr) : ((startBlock s).blockDone i).frame = s.frame :=
  (frame_eq_of_place_eq ((startBlock s).blockDone_place i)).trans (frame_eq_of_exposed_eq (startBlock_exposed s))

theorem State.blockResult_endsFrom (s : State) (i : Instr) : (s.blockResult i).endsFrom s .none :=
  State.ended_endsFrom (s.blockResult_frame i) .none

theorem State.memRead_blockResult (s : State) (i : Instr) (a : Nat) :
    (s.blockResult i).memRead a = ((startBlock s).blockDone i).memRead a := by
  rw [State.blockResult, State.ended_memRead]

/-- The run of `TPOSE` and of `ROTBLK` changes no byte outside the block (R45). -/
theorem State.readByte_blockResult (haw : s.aw ≤ 64) (i : Instr) {b : Nat}
    (hb : b ∉ s.blockFootprint s.biI.toNat s.bjJ.toNat) : (s.blockResult i).readByte b = s.readByte b := by
  rw [State.blockResult, State.ended_readByte]
  refine State.readByte_blockDone_outside (s := startBlock s) i fun r hr g hg heq => hb ?_
  rw [State.toNat_ba_startBlock haw] at heq
  exact State.mem_blockFootprint.mpr ⟨r, hr, g, hg, heq⟩

/-- The bits of a block whose rows do not overlap are those of the turned words. -/
theorem State.blockBit_blockResult (hwidth : 3 ≤ s.aw) (haw : s.aw ≤ 64) (i : Instr)
    (hflat : s.blockLiesFlat (s.blockAddr s.biI.toNat s.bjJ.toNat)) {r c : Nat} (hr : r < 64) (hc : c < 64) :
    (s.blockResult i).blockBit (s.blockAddr s.biI.toNat s.bjJ.toNat) r c =
      (turnedWord i (fun q => s.memRead (s.rowAddr (s.blockAddr s.biI.toNat s.bjJ.toNat) q)) r).getLsbD (c ^^^ 7) := by
  have hba := State.toNat_ba_startBlock (s := s) haw
  have hrow := State.memRead_blockDone_row (s := startBlock s) hwidth (by rw [hba]; exact hflat) i hr
  have hrowAddr := eq_of_place_eq (fun s => s.rowAddr) (fun _ => rfl) ((startBlock s).blockDone_place i)
  rw [← State.getLsbD_rowWord _ _ _ hc, State.blockResult, State.ended_memRead, State.ended_rowAddr, hrowAddr, ← hba, hrow,
    State.blockWord]
  rfl

/-- Settles O50: bit `(i, j)` comes from column `i` of row `j ^ 63`, which is `63 - j` (R69, R72). -/
theorem rotblkRotatesBlock : Obligations.RotblkRotatesBlock := by
  rintro s hissued hwidth haw haccepted A rfl hflat
  refine ⟨_, stepsTo_blockResult (.inr rfl) hissued haw haccepted, s.blockResult_endsFrom _, fun i hi j hj => ?bits,
    fun a ha => ?outside⟩
  case bits =>
    rw [State.blockBit_blockResult (by omega) haw _ hflat hi hj, getLsbD_turnedWord_of_passes (by decide) _ hi hj,
      State.getLsbD_rowWord _ _ _ hi]
  case outside =>
    rw [State.footprint_of_block (.inr rfl) (hissued.2.2.1 ▸ decode_eq_ok_iff_eq_encode.mpr rfl)] at ha
    exact State.readByte_blockResult haw _ ha

/-- Settles O51: without the two passes only the network is left, which mirrors both indices; in columns, that is `^ 56`
(R71). -/
theorem tposeTransposesBlock : Obligations.TposeTransposesBlock := by
  rintro s hissued hwidth haw haccepted A rfl hflat
  refine ⟨_, stepsTo_blockResult (.inl rfl) hissued haw haccepted, s.blockResult_endsFrom _, fun r hr c hc => ?bits,
    fun a ha => ?outside⟩
  case bits =>
    have hcolumn : r ^^^ 56 < 64 := Nat.xor_lt_two_pow (n := 6) hr (by decide)
    rw [State.blockBit_blockResult (by omega) haw _ hflat hr hc, getLsbD_turnedWord_tpose _ hr hc,
      State.getLsbD_rowWord _ _ _ hcolumn]
  case outside =>
    rw [State.footprint_of_block (.inl rfl) (hissued.2.2.1 ▸ decode_eq_ok_iff_eq_encode.mpr rfl)] at ha
    exact State.readByte_blockResult haw _ ha

/-- With stride 0 every row stands at the block's own address. -/
theorem State.rowAddr_of_stride_zero (hstride : s.strideS = 0) {A : Nat} (hA : A < 2 ^ s.aw) (r : Nat) :
    s.rowAddr A r = A := by
  rw [State.rowAddr, hstride]
  exact (congrArg s.trunc (by simp)).trans (State.trunc_of_lt hA)

/-- With stride 0 the last row written stays, and each of its bits is the same bit of the one word loaded. -/
theorem State.memRead_blockResult_of_stride_zero (hwidth : 3 ≤ s.aw) (haw : s.aw ≤ 64) (hstride : s.strideS = 0)
    (i : Instr) :
    (s.blockResult i).memRead (s.blockAddr s.biI.toNat s.bjJ.toNat) =
      if (s.memRead (s.blockAddr s.biI.toNat s.bjJ.toNat)).getLsbD (loadFlip i) then 0xFFFFFFFFFFFFFFFF else 0 := by
  set A := s.blockAddr s.biI.toNat s.bjJ.toNat with hA
  have hba : (startBlock s).ba.toNat = A := State.toNat_ba_startBlock haw
  have hrow (r : Nat) : (startBlock s).rowAddr A r = A := State.rowAddr_of_stride_zero hstride (s.blockAddr_lt _ _) r
  have hlast : (s.blockResult i).memRead A = (startBlock s).blockWord i 63 := by
    rw [State.memRead_blockResult, State.memRead_blockDone, hba]
    have hwritten := State.memRead_writeRows_last (s := startBlock s) (addr := (startBlock s).rowAddr A)
      (f := (startBlock s).blockWord i) (k := 63) hwidth
    rwa [hrow] at hwritten
  rw [hlast]
  refine BitVec.eq_of_getLsbD_eq fun b hb => ?_
  have hbit : ((startBlock s).blockWord i 63).getLsbD b = (s.memRead A).getLsbD (loadFlip i) := by
    rw [State.blockWord, getLsbD_turnedWord i _ (by decide) hb, hba, hrow, Nat.xor_self, Nat.zero_xor]
    rfl
  have hones : (0xFFFFFFFFFFFFFFFF : Word).getLsbD b = true := by
    rw [show (0xFFFFFFFFFFFFFFFF : Word) = BitVec.allOnes 64 from rfl, BitVec.getLsbD_allOnes, decide_eq_true hb]
  rw [hbit]
  cases (s.memRead A).getLsbD (loadFlip i)
  · simp
  · rw [if_pos rfl, hones]

/-- Settles O52: the bit that the pass on load brings to the anti-diagonal's corner decides, 56 for `ROTBLK`, 0 for `TPOSE`
(R73). -/
theorem zeroStrideKeepsOneBit : Obligations.ZeroStrideKeepsOneBit := by
  rintro s hwidth haw haccepted hstride A rfl
  have hword (i : Instr) := State.memRead_blockResult_of_stride_zero (by omega) haw hstride i
  exact ⟨fun hissued => ⟨_, stepsTo_blockResult (.inr rfl) hissued haw haccepted, s.blockResult_endsFrom _, hword .rotblk⟩,
    fun hissued => ⟨_, stepsTo_blockResult (.inl rfl) hissued haw haccepted, s.blockResult_endsFrom _, hword .tpose⟩⟩

end Sys2Proof.Machine
end

section
/-! One whole 4-cycle: the eight accesses of a row, the 64 rows, and the words they leave (R81, R82, R98). -/

namespace Sys2Proof.Machine

variable {s t : State} {i : Instr}

/-! ### The cells of the current 4-cycle -/

/-- The grid cell at a place of the 4-cycle of `(CI, CJ)` (R80). -/
def State.cycleCell (s : State) (p : CycleCell) : Nat × Nat := cycleCoords s.numBlocks s.ci.toNat s.cj.toNat p

/-- The grid cell whose content a clockwise rotation of the grid moves to `p` (R80). -/
def cameFrom (n : Nat) (p : Nat × Nat) : Nat × Nat := (n - 1 - p.2, p.1)

theorem cameFrom_next {n i j : Nat} (hi : i < n) (hj : j < n) (p : CycleCell) :
    cameFrom n (cycleCoords n i j p.next) = cycleCoords n i j p := by
  obtain ⟨hrow, hcolumn⟩ := cycleCoords_lt hi hj p
  rw [cycleCoords_next hi hj]
  exact Prod.ext (by simp only [cameFrom]; omega) rfl

/-! ### One row -/

/-- The platform accepts every row access of the current 4-cycle, and nothing is scheduled before the steps of command `i`,
which works on 4-cycles. -/
structure State.CycleReady (s : State) (i : Instr) : Prop where
  works : i = .cycle4 ∨ i = .rotmat
  decodes : decode s.op = .ok i
  unscheduled : s.schedule = []
  accepted : ∀ kind p, ∀ r < 64, s.memOk kind (s.cellAddr (s.cycleCell p) r) = true

theorem State.CycleReady.of_place (h : s.CycleReady i) (hplace : t.place = s.place) : t.CycleReady i where
  works := h.works
  decodes := (congrArg decode (eq_of_place_eq State.op (fun _ => rfl) hplace)).trans h.decodes
  unscheduled := (eq_of_place_eq State.schedule (fun _ => rfl) hplace).trans h.unscheduled
  accepted kind p r hr :=
    (eq_of_place_eq (fun s => s.memOk kind (s.cellAddr (s.cycleCell p) r)) (fun _ => rfl) hplace).trans
      (h.accepted kind p r hr)

/-- Row `ROW` of cell `q` read into `DR` and stored in row `ROW` of cell `p`: two accesses, the next being `k` (R81). -/
def State.moved (s : State) (p q : CycleCell) (k : Fin 8) : State :=
  { s.memWrite (s.cellAddr (s.cycleCell p) s.row.toNat) (s.cellWord (s.cycleCell q) s.row.toNat) with
    dr := s.cellWord (s.cycleCell q) s.row.toNat, fsm := .cyc k }

/-- Row `ROW` of cell A read into `TMP`: the first access of a row (R81). -/
def State.savedA (s : State) : State := { s with tmp := s.cellWord (s.cycleCell .cellA) s.row.toNat, fsm := .cyc 1 }

/-- `TMP` stored in row `ROW` of cell B: the last access of a row (R81). -/
def State.restoredB (s : State) : State := s.memWrite (s.cellAddr (s.cycleCell .cellB) s.row.toNat) s.tmp

/-- The state in which the last access of row `ROW` has just been made: A has what D held, D what C held, C what B held, and
B what A held at first (R81). -/
def State.cycleRow (s : State) : State :=
  (((s.savedA.moved .cellA .cellD 3).moved .cellD .cellC 5).moved .cellC .cellB 7).restoredB

@[simp] theorem State.savedA_place (s : State) : s.savedA.place = s.place := rfl
@[simp] theorem State.moved_place (s : State) (p q : CycleCell) (k : Fin 8) : (s.moved p q k).place = s.place := rfl
@[simp] theorem State.restoredB_place (s : State) : s.restoredB.place = s.place := rfl
@[simp] theorem State.cycleRow_place (s : State) : s.cycleRow.place = s.place := by simp [State.cycleRow]

@[simp] theorem State.savedA_row (s : State) : s.savedA.row = s.row := rfl
@[simp] theorem State.moved_row (s : State) (p q : CycleCell) (k : Fin 8) : (s.moved p q k).row = s.row := rfl
@[simp] theorem State.restoredB_row (s : State) : s.restoredB.row = s.row := rfl
@[simp] theorem State.cycleRow_row (s : State) : s.cycleRow.row = s.row := by simp [State.cycleRow]

theorem State.CycleReady.access_accepted (h : s.CycleReady i) (kind : AccessKind) (k : Fin 8) :
    s.memOk kind (s.cycAddr k) = true :=
  h.accepted kind (cycleAccess k).cell s.row.toNat s.row.isLt

/-- A read into `DR` and the write that follows it. -/
theorem stepsTo_moved (h : s.CycleReady i) {p q : CycleCell} {k : Fin 8} (hk : k.val < 6)
    (hread : cycleAccess k = ⟨.read, q, .dr⟩) (hwrite : cycleAccess (k + 1) = ⟨.write, p, .dr⟩) (hfsm : s.fsm = .cyc k) :
    stepsTo 2 s (s.moved p q (k + 1 + 1)) := by
  have hsucc : (k + 1).val = k.val + 1 := Fin.val_add_one_of_lt (Fin.lt_def.mpr (by simp; omega))
  have hfirst : stepsTo 1 s { s with dr := s.cellWord (s.cycleCell q) s.row.toNat, fsm := .cyc (k + 1) } := by
    have hexec := exec_cyc_read h.works (by omega) (by rw [hread]) hfsm (h.access_accepted .read k)
    rw [State.cycAddr, hread] at hexec
    exact stepsTo_of_exec (by simp [hfsm]) h.decodes h.unscheduled hexec
  set u : State := { s with dr := s.cellWord (s.cycleCell q) s.row.toNat, fsm := .cyc (k + 1) } with hu
  have hready : u.CycleReady i := h.of_place rfl
  have hexec := exec_cyc_write hready.works (by omega) (by rw [hwrite]) rfl (hready.access_accepted .write (k + 1))
  rw [State.cycAddr, hwrite] at hexec
  exact stepsTo_trans hfirst (stepsTo_of_exec nofun hready.decodes hready.unscheduled hexec)

/-- The eight accesses of a row (R81). -/
theorem stepsTo_cycleRow (h : s.CycleReady i) (hfsm : s.fsm = .cyc 0) :
    stepsTo 8 s (afterAccess (afterCycle i) 7 s.cycleRow) := by
  have hsaved : stepsTo 1 s s.savedA :=
    stepsTo_of_exec (by simp [hfsm]) h.decodes h.unscheduled
      (exec_cyc_read (k := 0) h.works (by decide) rfl hfsm (h.access_accepted .read 0))
  have hmoveA := stepsTo_moved (h.of_place s.savedA_place) (p := .cellA) (q := .cellD) (k := 1) (by decide) rfl rfl rfl
  have hmoveD := stepsTo_moved (s := s.savedA.moved .cellA .cellD 3) (h.of_place (by simp)) (p := .cellD) (q := .cellC)
    (k := 3) (by decide) rfl rfl rfl
  have hmoveC := stepsTo_moved (s := (s.savedA.moved .cellA .cellD 3).moved .cellD .cellC 5) (h.of_place (by simp))
    (p := .cellC) (q := .cellB) (k := 5) (by decide) rfl rfl rfl
  have hready : (((s.savedA.moved .cellA .cellD 3).moved .cellD .cellC 5).moved .cellC .cellB 7).CycleReady i :=
    h.of_place (by simp)
  have hlast := stepsTo_of_exec (by exact nofun) hready.decodes hready.unscheduled
    (exec_cyc_last hready.works rfl (hready.access_accepted .write 7))
  exact stepsTo_trans (stepsTo_trans (stepsTo_trans (stepsTo_trans hsaved hmoveA) hmoveD) hmoveC) hlast

/-! ### What a row leaves in the words of the matrix -/

theorem State.FlatMatrix.of_frame (h : s.FlatMatrix) (hframe : t.frame = s.frame) : t.FlatMatrix where
  check := (eq_of_frame_eq State.matrixCheck (fun _ => rfl) hframe).trans h.check
  width := (eq_of_frame_eq State.aw (fun _ => rfl) hframe).symm ▸ h.width
  flat := (eq_of_frame_eq State.matrixLiesFlat (fun _ => rfl) hframe).symm ▸ h.flat

theorem State.FlatMatrix.of_place (h : s.FlatMatrix) (hplace : t.place = s.place) : t.FlatMatrix :=
  h.of_frame (frame_eq_of_place_eq hplace)

/-- `CI` and `CJ` are a cell of the grid. -/
abbrev State.CellInGrid (s : State) : Prop := s.ci.toNat < s.numBlocks ∧ s.cj.toNat < s.numBlocks

theorem State.CellInGrid.cycleCell (h : s.CellInGrid) (p : CycleCell) : s.InGrid (s.cycleCell p) :=
  cycleCoords_lt h.1 h.2 p

section
variable {u : State} (hflat : s.FlatMatrix) (hgrid : s.CellInGrid) (hplace : u.place = s.place) (hrow : u.row = s.row)
include hflat hgrid hplace hrow

theorem State.cellWord_moved (p q : CycleCell) (k : Fin 8) {c : Nat × Nat} (hc : s.InGrid c) {r : Nat} (hr : r < 64) :
    (u.moved p q k).cellWord c r =
      if c = s.cycleCell p ∧ r = s.row.toNat then u.cellWord (s.cycleCell q) s.row.toNat else u.cellWord c r := by
  have hcell : u.cycleCell = s.cycleCell := eq_of_place_eq State.cycleCell (fun _ => rfl) hplace
  have hin {c : Nat × Nat} (hc : s.InGrid c) : u.InGrid c :=
    (eq_of_place_eq (fun s => s.InGrid c) (fun _ => rfl) hplace).symm ▸ hc
  rw [← hcell, ← hrow]
  exact (hflat.of_place hplace).cellWord_memWrite (hin hc) (hcell ▸ hin (hgrid.cycleCell p)) hr u.row.isLt _

theorem State.cellWord_restoredB {c : Nat × Nat} (hc : s.InGrid c) {r : Nat} (hr : r < 64) :
    u.restoredB.cellWord c r = if c = s.cycleCell .cellB ∧ r = s.row.toNat then u.tmp else u.cellWord c r := by
  have hcell : u.cycleCell = s.cycleCell := eq_of_place_eq State.cycleCell (fun _ => rfl) hplace
  have hin {c : Nat × Nat} (hc : s.InGrid c) : u.InGrid c :=
    (eq_of_place_eq (fun s => s.InGrid c) (fun _ => rfl) hplace).symm ▸ hc
  rw [← hcell, ← hrow]
  exact (hflat.of_place hplace).cellWord_memWrite (hin hc) (hcell ▸ hin (hgrid.cycleCell .cellB)) hr u.row.isLt _

end

@[simp] theorem State.savedA_cellWord (s : State) (c : Nat × Nat) (r : Nat) : s.savedA.cellWord c r = s.cellWord c r := rfl
@[simp] theorem State.savedA_tmp (s : State) : s.savedA.tmp = s.cellWord (s.cycleCell .cellA) s.row.toNat := rfl
@[simp] theorem State.moved_tmp (s : State) (p q : CycleCell) (k : Fin 8) : (s.moved p q k).tmp = s.tmp := rfl

/-- `t` holds the row words of `s`, but at the grid cells and rows of `H` those of the cell that a clockwise rotation of the
grid moves there. -/
structure Relocated (s t : State) (H : Nat × Nat → Nat → Prop) : Prop where
  moved : ∀ c, s.InGrid c → ∀ r < 64, H c r → t.cellWord c r = s.cellWord (cameFrom s.numBlocks c) r
  kept : ∀ c, s.InGrid c → ∀ r < 64, ¬ H c r → t.cellWord c r = s.cellWord c r

theorem cameFrom_lt {n : Nat} {c : Nat × Nat} (hc : c.1 < n ∧ c.2 < n) : (cameFrom n c).1 < n ∧ (cameFrom n c).2 < n := by
  simp only [cameFrom]
  omega

theorem Relocated.congr {H K : Nat × Nat → Nat → Prop} (h : Relocated s t H) (hiff : ∀ c r, H c r ↔ K c r) :
    Relocated s t K := by
  have heq : H = K := funext fun c => funext fun r => propext (hiff c r)
  exact heq ▸ h

/-- One relocation after another, when the second moves no word that the first has moved. -/
theorem Relocated.trans {u : State} {H K : Nat × Nat → Nat → Prop} (hst : Relocated s t H) (htu : Relocated t u K)
    (hn : t.numBlocks = s.numBlocks)
    (hsource : ∀ c r, s.InGrid c → K c r → ¬ H (cameFrom s.numBlocks c) r) :
    Relocated s u fun c r => H c r ∨ K c r where
  moved c hc r hr hmoved := by
    by_cases hK : K c r
    · rw [htu.moved c (by rwa [State.InGrid, hn]) r hr hK, hn,
        hst.kept _ (cameFrom_lt hc) r hr (hsource c r hc hK)]
    · rw [htu.kept c (by rwa [State.InGrid, hn]) r hr hK, hst.moved c hc r hr (hmoved.resolve_right hK)]
  kept c hc r hr hkept := by
    rw [not_or] at hkept
    rw [htu.kept c (by rwa [State.InGrid, hn]) r hr hkept.2, hst.kept c hc r hr hkept.1]

/-- The grid cell `c` is one of the current 4-cycle. -/
def State.OnCycle (s : State) (c : Nat × Nat) : Prop := ∃ p, s.cycleCell p = c

/-- The accesses of a row relocate its words. The cells are the same or distinct (R80), so no access overwrites a word that a
later one moves. -/
theorem relocated_cycleRow (hflat : s.FlatMatrix) (hgrid : s.CellInGrid) :
    Relocated s s.cycleRow fun c r => s.OnCycle c ∧ r = s.row.toNat := by
  have hA {c : Nat × Nat} (hc : s.InGrid c) {r : Nat} (hr : r < 64) :=
    State.cellWord_moved (u := s.savedA) hflat hgrid (by simp) (by simp) .cellA .cellD 3 hc hr
  have hD {c : Nat × Nat} (hc : s.InGrid c) {r : Nat} (hr : r < 64) :=
    State.cellWord_moved (u := s.savedA.moved .cellA .cellD 3) hflat hgrid (by simp) (by simp) .cellD .cellC 5 hc hr
  have hC {c : Nat × Nat} (hc : s.InGrid c) {r : Nat} (hr : r < 64) :=
    State.cellWord_moved (u := (s.savedA.moved .cellA .cellD 3).moved .cellD .cellC 5) hflat hgrid (by simp) (by simp)
      .cellC .cellB 7 hc hr
  have hB {c : Nat × Nat} (hc : s.InGrid c) {r : Nat} (hr : r < 64) :=
    State.cellWord_restoredB (u := ((s.savedA.moved .cellA .cellD 3).moved .cellD .cellC 5).moved .cellC .cellB 7) hflat
      hgrid (by simp) (by simp) hc hr
  refine ⟨?moved, fun c hc r hr hother => ?kept⟩
  case moved =>
    rintro _ hc _ hr ⟨⟨p, rfl⟩, rfl⟩
    rw [State.cycleRow, hB hc hr, hC hc hr, hD hc hr, hA hc hr, hD (hgrid.cycleCell .cellB) hr,
      hA (hgrid.cycleCell .cellB) hr, hA (hgrid.cycleCell .cellC) hr]
    simp only [State.savedA_cellWord, State.moved_tmp, State.savedA_tmp, and_true]
    by_cases hcentre : 2 * s.ci.toNat + 1 = s.numBlocks ∧ 2 * s.cj.toNat + 1 = s.numBlocks
    · have hcell (q : CycleCell) : s.cycleCell q = (s.ci.toNat, s.cj.toNat) := cycleCoords_of_centre hcentre q
      have hfixed : cameFrom s.numBlocks (s.ci.toNat, s.cj.toNat) = (s.ci.toNat, s.cj.toNat) :=
        Prod.ext (by simp only [cameFrom]; omega) (by simp only [cameFrom]; omega)
      simp only [hcell, hfixed, if_true]
    · have hdistinct (a b : CycleCell) : s.cycleCell a = s.cycleCell b ↔ a = b :=
        (cycleCoords_injective hgrid.1 hgrid.2 hcentre).eq_iff
      have hfrom (a b : CycleCell) (h : a.next = b) : cameFrom s.numBlocks (s.cycleCell b) = s.cycleCell a :=
        h ▸ cameFrom_next hgrid.1 hgrid.2 a
      cases p with
      | cellA => simp [hdistinct, hfrom .cellD .cellA rfl]
      | cellB => simp [hfrom .cellA .cellB rfl]
      | cellC => simp [hdistinct, hfrom .cellB .cellC rfl]
      | cellD => simp [hdistinct, hfrom .cellC .cellD rfl]
  case kept =>
    have hother (p : CycleCell) : ¬(c = s.cycleCell p ∧ r = s.row.toNat) := fun h => hother ⟨⟨p, h.1.symm⟩, h.2⟩
    rw [State.cycleRow, hB hc hr, if_neg (hother .cellB), hC hc hr, if_neg (hother .cellC), hD hc hr,
      if_neg (hother .cellD), hA hc hr, if_neg (hother .cellA), State.savedA_cellWord]

/-- The bytes outside the four cells stay as they are. -/
theorem State.readByte_cycleRow {b : Nat} (hb : ∀ p, b ∉ s.blockFootprint (s.cycleCell p).1 (s.cycleCell p).2) :
    s.cycleRow.readByte b = s.readByte b := by
  have outside {u : State} (hplace : u.place = s.place) (p : CycleCell) :
      ∀ g < 8, b ≠ u.trunc (u.cellAddr (u.cycleCell p) u.row.toNat + g) := by
    intro g hg heq
    have hfootprint := eq_of_place_eq (fun s => s.blockFootprint (s.cycleCell p).1 (s.cycleCell p).2) (fun _ => rfl) hplace
    exact hb p (hfootprint ▸ State.mem_blockFootprint.mpr ⟨u.row.toNat, u.row.isLt, g, hg, heq⟩)
  have moved {u : State} (hplace : u.place = s.place) (p q : CycleCell) (k : Fin 8) :
      (u.moved p q k).readByte b = u.readByte b := State.readByte_memWrite_outside _ (outside hplace p)
  have restored {u : State} (hplace : u.place = s.place) : u.restoredB.readByte b = u.readByte b :=
    State.readByte_memWrite_outside _ (outside hplace .cellB)
  rw [State.cycleRow, restored (by simp), moved (by simp), moved (by simp), moved (by simp)]
  rfl

/-! ### The 64 rows -/

@[simp] theorem enter_place (fsm : Fsm) (r : BitVec 6) (s : State) : (enter fsm r s).place = s.place := rfl

/-- The state in CYC(k, 0), the rows before `k` moved. -/
def State.cycleRows (s : State) : Nat → State
  | 0 => s
  | k + 1 => enter (.cyc 0) (BitVec.ofNat 6 (k + 1)) (s.cycleRows k).cycleRow

/-- The state in which the last access of the last row of the current 4-cycle has just been made. -/
def State.cycleDone (s : State) : State := (s.cycleRows 63).cycleRow

@[simp] theorem State.cycleRows_place (s : State) (k : Nat) : (s.cycleRows k).place = s.place := by
  induction k with
  | zero => rfl
  | succ k ih => rw [State.cycleRows, enter_place, State.cycleRow_place, ih]

@[simp] theorem State.cycleDone_place (s : State) : s.cycleDone.place = s.place :=
  (State.cycleRow_place _).trans (s.cycleRows_place 63)

theorem State.toNat_row_cycleRows (hrow : s.row = 0) {k : Nat} (hk : k < 64) : (s.cycleRows k).row.toNat = k := by
  cases k with
  | zero => exact congrArg BitVec.toNat hrow
  | succ k => exact toNat_rowOf hk

theorem State.fsm_cycleRows (hfsm : s.fsm = .cyc 0) (k : Nat) : (s.cycleRows k).fsm = .cyc 0 := by
  cases k with
  | zero => exact hfsm
  | succ k => rfl

/-- A 4-cycle takes 64 rows of eight accesses (R91). -/
theorem stepsTo_cycle (h : s.CycleReady i) (hfsm : s.fsm = .cyc 0) (hrow : s.row = 0) :
    stepsTo 512 s (afterCycle i s.cycleDone) := by
  have hstep (k : Nat) : stepsTo 8 (s.cycleRows k) (afterAccess (afterCycle i) 7 (s.cycleRows k).cycleRow) :=
    stepsTo_cycleRow (h.of_place (s.cycleRows_place k)) (State.fsm_cycleRows hfsm k)
  have hrows : stepsTo (63 * 8) (s.cycleRows 0) (s.cycleRows 63) := stepsTo_chain fun k hk => by
    have hk' := hstep k
    have hrowk := State.toNat_row_cycleRows hrow (k := k) (by omega)
    have hrow' : (s.cycleRows k).cycleRow.row = BitVec.ofNat 6 k := by
      rw [State.cycleRow_row, ← BitVec.toNat_inj, hrowk, toNat_rowOf (by omega)]
    rw [afterAccess_seven_of_ne (by rw [hrow', Ne, rowOf_eq_last_iff (by omega)]; omega), hrow'] at hk'
    rwa [State.cycleRows, BitVec.ofNat_add]
  have hlast := hstep 63
  rw [afterAccess_seven_of_eq] at hlast
  · exact stepsTo_trans hrows hlast
  · rw [State.cycleRow_row, ← BitVec.toNat_inj, State.toNat_row_cycleRows hrow (by decide)]
    rfl

theorem enter_cellWord (fsm : Fsm) (r : BitVec 6) (s : State) : (enter fsm r s).cellWord = s.cellWord := rfl

theorem Relocated.of_cellWord_eq {u : State} {H : Nat × Nat → Nat → Prop} (h : Relocated s t H)
    (heq : u.cellWord = t.cellWord) : Relocated s u H :=
  ⟨heq ▸ h.moved, heq ▸ h.kept⟩

theorem State.onCycle_of_place (hplace : t.place = s.place) (c : Nat × Nat) : t.OnCycle c ↔ s.OnCycle c :=
  iff_of_eq (eq_of_place_eq (fun s => s.OnCycle c) (fun _ => rfl) hplace)

theorem State.CellInGrid.of_place (h : s.CellInGrid) (hplace : t.place = s.place) : t.CellInGrid :=
  (eq_of_place_eq State.CellInGrid (fun _ => rfl) hplace).symm ▸ h

theorem numBlocks_of_place (hplace : t.place = s.place) : t.numBlocks = s.numBlocks :=
  eq_of_place_eq State.numBlocks (fun _ => rfl) hplace

/-- One more row of the 4-cycle. -/
theorem relocated_cycleRow_cycleRows (hflat : s.FlatMatrix) (hgrid : s.CellInGrid) (hrow : s.row = 0) {k : Nat} (hk : k < 64)
    (h : Relocated s (s.cycleRows k) fun c r => s.OnCycle c ∧ r < k) :
    Relocated s (s.cycleRows k).cycleRow fun c r => s.OnCycle c ∧ r < k + 1 := by
  have hplace := s.cycleRows_place k
  have hnext := relocated_cycleRow (hflat.of_place hplace) (hgrid.of_place hplace)
  simp only [State.onCycle_of_place hplace, State.toNat_row_cycleRows hrow hk] at hnext
  refine (h.trans hnext (numBlocks_of_place hplace) ?_).congr fun c r => ?_
  · rintro c r - ⟨-, rfl⟩ ⟨-, hlt⟩
    omega
  · rw [← and_or_left, Nat.lt_succ_iff_lt_or_eq]

theorem relocated_cycleRows (hflat : s.FlatMatrix) (hgrid : s.CellInGrid) (hrow : s.row = 0) {k : Nat} (hk : k < 64) :
    Relocated s (s.cycleRows k) fun c r => s.OnCycle c ∧ r < k := by
  induction k with
  | zero => exact ⟨fun c _ r _ h => absurd h.2 (Nat.not_lt_zero r), fun _ _ _ _ _ => rfl⟩
  | succ k ih =>
    exact (relocated_cycleRow_cycleRows hflat hgrid hrow (by omega) (ih (by omega))).of_cellWord_eq
      (enter_cellWord _ _ _)

/-- A whole 4-cycle moves the content of its four blocks one place along the cycle (R82). -/
theorem relocated_cycleDone (hflat : s.FlatMatrix) (hgrid : s.CellInGrid) (hrow : s.row = 0) :
    Relocated s s.cycleDone fun c _ => s.OnCycle c := by
  have h := relocated_cycleRow_cycleRows hflat hgrid hrow (by decide)
    (relocated_cycleRows hflat hgrid hrow (k := 63) (by decide))
  exact ⟨fun c hc r hr hon => h.moved c hc r hr ⟨hon, hr⟩, fun c hc r hr hoff => h.kept c hc r hr fun hon => hoff hon.1⟩

/-- The bytes outside the four blocks of a 4-cycle stay as they are. -/
theorem State.readByte_cycleDone {b : Nat} (hb : ∀ p, b ∉ s.blockFootprint (s.cycleCell p).1 (s.cycleCell p).2) :
    s.cycleDone.readByte b = s.readByte b := by
  have hrow (k : Nat) : (s.cycleRows k).cycleRow.readByte b = (s.cycleRows k).readByte b := by
    refine State.readByte_cycleRow fun p => ?_
    rw [eq_of_place_eq (fun s => s.blockFootprint (s.cycleCell p).1 (s.cycleCell p).2) (fun _ => rfl) (s.cycleRows_place k)]
    exact hb p
  have hrows (k : Nat) : (s.cycleRows k).readByte b = s.readByte b := by
    induction k with
    | zero => rfl
    | succ k ih => exact (hrow k).trans ih
  exact (hrow 63).trans (hrows 63)

end Sys2Proof.Machine
end

section
/-! The statement about whole runs of `CYCLE4` of 43_matrix_driver.md. -/

namespace Sys2Proof.Machine

variable {s t : State}

/-- The bits of a relocated block are those of the block that moved there. -/
theorem Relocated.blockBit {H : Nat × Nat → Nat → Prop} (h : Relocated s t H) (hframe : t.frame = s.frame) {p : Nat × Nat}
    (hp : s.InGrid p) {r c : Nat} (hr : r < 64) (hc : c < 64) (hH : H p r) :
    t.blockBit (s.blockAddr p.1 p.2) r c =
      s.blockBit (s.blockAddr (cameFrom s.numBlocks p).1 (cameFrom s.numBlocks p).2) r c := by
  have haddr : s.blockAddr p.1 p.2 = t.blockAddr p.1 p.2 :=
    (eq_of_frame_eq (fun s => s.blockAddr p.1 p.2) (fun _ => rfl) hframe).symm
  rw [haddr, State.blockBit_eq_cellWord t p r hc, h.moved p hp r hr hH, State.blockBit_eq_cellWord s _ r hc]

/-- Settles O53: one check step, the relocation of one 4-cycle and the COMPLETE step; at the centre each cell comes from
itself (R82). -/
theorem cycleMovesFourBlocks : Obligations.CycleMovesFourBlocks := by
  intro s hissued hcheck hwidth haccepted hflat corner hcorner
  obtain ⟨hfsm, -, hop, hnil⟩ := hissued
  have hd : decode s.op = .ok .cycle4 := hop ▸ decode_eq_ok_iff_eq_encode.mpr rfl
  obtain ⟨hmatrix, hi, hj⟩ := State.matrixCheck_of_cycleCheck hcheck
  set u : State := enter (.cyc 0) 0 { s with ci := s.biI, cj := s.bjJ } with hu
  have hready : u.CycleReady .cycle4 := ⟨.inl rfl, hd, hnil, fun kind p r hr => haccepted kind _
    ((State.mem_footprint_of_cell hd hcheck).mpr ⟨p, s.rowAddr_mem_blockFootprint _ _ hr⟩)⟩
  have hflatU : u.FlatMatrix := ⟨hmatrix, (show 3 ≤ s.aw by omega), hflat⟩
  have hgrid : u.CellInGrid := ⟨hi, hj⟩
  have hstart : stepsTo 1 s u :=
    stepsTo_of_exec (by simp [hfsm]) hd hnil ((exec_cycle4_check hfsm).trans (congrArg _ (startCycle_of_accepted hcheck)))
  have hschedule : u.cycleDone.schedule = [] :=
    (eq_of_place_eq State.schedule (fun _ => rfl) u.cycleDone_place).trans hnil
  have hcycle : stepsTo 512 u (raise .none u.cycleDone) := by
    rw [← afterCycle_cycle4]
    exact stepsTo_cycle hready rfl rfl
  have hframe : u.cycleDone.frame = u.frame := frame_eq_of_place_eq u.cycleDone_place
  refine ⟨u.cycleDone.ended .none, stepsTo_trans (stepsTo_trans hstart hcycle) (stepsTo_ended hschedule .none),
    State.ended_endsFrom (hframe.trans rfl) .none, fun r hr c hc => ?moved, fun a ha => ?outside⟩
  case moved =>
    have hbit (p q : CycleCell) (hnext : p.next = q) :
        (u.cycleDone.ended .none).blockBit (corner q) r c = s.blockBit (corner p) r c := by
      have hmoved := (relocated_cycleDone hflatU hgrid rfl).blockBit hframe (hgrid.cycleCell q) hr hc ⟨q, rfl⟩
      have hfrom : cameFrom u.numBlocks (u.cycleCell q) = u.cycleCell p := hnext ▸ cameFrom_next hi hj p
      rw [hfrom] at hmoved
      rw [State.ended_blockBit, hcorner p, hcorner q]
      exact hmoved
    exact ⟨hbit .cellD .cellA rfl, hbit .cellC .cellD rfl, hbit .cellB .cellC rfl, hbit .cellA .cellB rfl⟩
  case outside =>
    rw [State.ended_readByte]
    exact State.readByte_cycleDone (s := u) fun p hp => ha ((State.mem_footprint_of_cell hd hcheck).mpr ⟨p, hp⟩)

end Sys2Proof.Machine
end

section
/-! The two phases of `ROTMAT` (R84, R86): what holds after the first `k` 4-cycles and after the first `k` blocks. -/

namespace Sys2Proof.Machine

variable {s t u : State}

/-! ### The k-th place of a grid, row by row -/

/-- The place after place `k` of `rows` rows of `h` columns: the next column, or column 0 of the next row. -/
theorem nextPlace_cases {rows h k : Nat} (hk : k < rows * h) :
    (k % h + 1 < h ∧ (k + 1) / h = k / h ∧ (k + 1) % h = k % h + 1 ∧ k + 1 < rows * h) ∨
    (k % h + 1 = h ∧ (k + 1) / h = k / h + 1 ∧ (k + 1) % h = 0 ∧ (k / h + 1 < rows ↔ k + 1 < rows * h)) := by
  have hpos : 0 < h := Nat.pos_of_ne_zero fun h0 => by simp [h0] at hk
  have hsplit := Nat.div_add_mod k h
  have hmod := Nat.mod_lt k hpos
  by_cases hcolumn : k % h + 1 < h
  · obtain ⟨hdiv, hmod'⟩ := (Nat.div_mod_unique hpos).mpr ⟨(by omega : k % h + 1 + h * (k / h) = k + 1), hcolumn⟩
    refine .inl ⟨hcolumn, hdiv, hmod', ?_⟩
    rw [← Nat.div_lt_iff_lt_mul hpos, hdiv]
    exact (Nat.div_lt_iff_lt_mul hpos).mpr hk
  · have hlast : k % h + 1 = h := by omega
    obtain ⟨hdiv, hmod'⟩ := (Nat.div_mod_unique hpos).mpr
      ⟨(by rw [Nat.mul_add]; omega : 0 + h * (k / h + 1) = k + 1), hpos⟩
    refine .inr ⟨hlast, hdiv, hmod', ?_⟩
    rw [← Nat.div_lt_iff_lt_mul hpos, hdiv]

/-- A place of the grid has one number. -/
theorem place_eq_iff {h k i j : Nat} (hj : j < h) : i * h + j = k ↔ i = k / h ∧ j = k % h := by
  rw [eq_comm (a := i), eq_comm (a := j), Nat.div_mod_unique (by omega), Nat.mul_comm, Nat.add_comm]
  exact ⟨fun heq => ⟨heq, hj⟩, fun heq => heq.1⟩

/-! ### What both phases need and keep -/

/-- The core runs `ROTMAT` on a flat matrix, the platform accepts every access to it, and nothing is scheduled before the
core's steps. -/
structure State.MatrixReady (s : State) : Prop where
  decodes : decode s.op = .ok .rotmat
  unscheduled : s.schedule = []
  flat : s.FlatMatrix
  width : s.aw ≤ 64
  accepted : ∀ kind, ∀ a ∈ s.matrixFootprint, s.memOk kind a = true

theorem State.MatrixReady.of_frame (h : s.MatrixReady) (hframe : t.frame = s.frame) : t.MatrixReady where
  decodes := (congrArg decode (eq_of_frame_eq State.op (fun _ => rfl) hframe)).trans h.decodes
  unscheduled := (eq_of_frame_eq State.schedule (fun _ => rfl) hframe).trans h.unscheduled
  flat := h.flat.of_frame hframe
  width := (eq_of_frame_eq State.aw (fun _ => rfl) hframe).symm ▸ h.width
  accepted kind a ha := by
    have hfootprint := eq_of_frame_eq State.matrixFootprint (fun _ => rfl) hframe
    have hmemOk := eq_of_frame_eq (fun s => s.memOk kind a) (fun _ => rfl) hframe
    exact hmemOk.trans (h.accepted kind a (hfootprint ▸ ha))

/-- Each row of a block of the grid starts in the matrix. -/
theorem State.MatrixReady.cell_accepted (h : s.MatrixReady) (kind : AccessKind) {p : Nat × Nat} (hp : s.InGrid p) {r : Nat}
    (hr : r < 64) : s.memOk kind (s.cellAddr p r) = true :=
  h.accepted kind _
    (State.mem_matrixFootprint_of_block h.flat.check hp.1 hp.2 (s.rowAddr_mem_blockFootprint _ _ hr))

theorem numBlocks_of_frame (hframe : t.frame = s.frame) : t.numBlocks = s.numBlocks :=
  eq_of_frame_eq State.numBlocks (fun _ => rfl) hframe

theorem cellWord_of_exposed (h : t.exposed = s.exposed) : t.cellWord = s.cellWord :=
  eq_of_exposed_eq State.cellWord (fun _ => rfl) h

theorem readByte_of_exposed (h : t.exposed = s.exposed) : t.readByte = s.readByte :=
  eq_of_exposed_eq State.readByte (fun _ => rfl) h

/-- LOAD(0) of block `k` of the grid, row by row. -/
structure State.AtBlock (u : State) (k : Nat) : Prop where
  fsm : u.fsm = .load
  row : u.row = 0
  ci : u.ci.toNat = k / u.numBlocks
  cj : u.cj.toNat = k % u.numBlocks
  ba : u.ba.toNat = u.blockAddr u.ci.toNat u.cj.toNat

theorem atBlock_enterBlock (haw : s.aw ≤ 64) {i j : Field} {k : Nat} (hi : i.toNat = k / s.numBlocks)
    (hj : j.toNat = k % s.numBlocks) : (enterBlock i j s).AtBlock k := by
  refine ⟨rfl, rfl, hi, hj, ?_⟩
  rw [enterBlock_ba, State.toNat_truncWord haw]
  exact State.trunc_of_lt (s.blockAddr_lt _ _)

/-! ### Phase 1 (R84) -/

/-- CYC(0, 0) of the `k`-th 4-cycle of the range of phase 1. -/
structure State.AtCycle (u : State) (k : Nat) : Prop where
  fsm : u.fsm = .cyc 0
  row : u.row = 0
  ci : u.ci.toNat = k / (u.numBlocks / 2)
  cj : u.cj.toNat = k % (u.numBlocks / 2)

/-- The grid cell `c` is on one of the first `k` 4-cycles of the range of phase 1. -/
def OnFirstCycles (n k : Nat) (c : Nat × Nat) : Prop :=
  ∃ i < (n + 1) / 2, ∃ j < n / 2, ∃ p, i * (n / 2) + j < k ∧ cycleCoords n i j p = c

/-- The state `u` in which `ROTMAT`, started from `s`, has relocated the blocks of the first `k` 4-cycles. -/
structure PhaseOne (s u : State) (k : Nat) : Prop where
  frame : u.frame = s.frame
  relocated : Relocated s u fun c _ => OnFirstCycles s.numBlocks k c
  outside : ∀ b, b ∉ s.matrixFootprint → u.readByte b = s.readByte b

theorem phaseOne_zero (hexposed : u.exposed = s.exposed) : PhaseOne s u 0 where
  frame := frame_eq_of_exposed_eq hexposed
  relocated := ⟨fun c _ r _ h => by obtain ⟨i, -, j, -, p, hlt, -⟩ := h; exact absurd hlt (Nat.not_lt_zero _),
    fun c _ r _ _ => congrFun (congrFun (cellWord_of_exposed hexposed) c) r⟩
  outside b _ := congrFun (readByte_of_exposed hexposed) b

theorem PhaseOne.of_exposed {k : Nat} (h : PhaseOne s u k) (hexposed : t.exposed = u.exposed) : PhaseOne s t k where
  frame := (frame_eq_of_exposed_eq hexposed).trans h.frame
  relocated := h.relocated.of_cellWord_eq (cellWord_of_exposed hexposed)
  outside b hb := (congrFun (readByte_of_exposed hexposed) b).trans (h.outside b hb)

theorem State.AtCycle.inRange {k : Nat} (h : u.AtCycle k) (hk : k < u.numCycles) :
    u.ci.toNat < (u.numBlocks + 1) / 2 ∧ u.cj.toNat < u.numBlocks / 2 := by
  rw [State.numCycles] at hk
  have hpos : 0 < u.numBlocks / 2 := Nat.pos_of_ne_zero fun h0 => by simp [h0] at hk
  rw [h.ci, h.cj]
  exact ⟨(Nat.div_lt_iff_lt_mul hpos).mpr hk, Nat.mod_lt _ hpos⟩

theorem State.AtCycle.cellInGrid {k : Nat} (h : u.AtCycle k) (hk : k < u.numCycles) : u.CellInGrid := by
  obtain ⟨hi, hj⟩ := h.inRange hk
  exact ⟨by omega, by omega⟩

/-- The `k`-th 4-cycle is disjoint from those before it (R85). -/
theorem not_onFirstCycles_cameFrom {k : Nat} (h : u.AtCycle k) (hk : k < u.numCycles) {c : Nat × Nat} (hc : u.OnCycle c) :
    ¬ OnFirstCycles u.numBlocks k (cameFrom u.numBlocks c) := by
  obtain ⟨hci, hcj⟩ := h.inRange hk
  obtain ⟨hrow, hcolumn⟩ := h.cellInGrid hk
  obtain ⟨p, rfl⟩ := hc
  rintro ⟨i, hi, j, hj, q, hlt, hq⟩
  have hprev : cameFrom u.numBlocks (u.cycleCell p) = u.cycleCell p.next.next.next := by
    conv_lhs => rw [← p.next_next_next_next]
    exact cameFrom_next hrow hcolumn _
  obtain ⟨rfl, rfl, -⟩ := phaseOneCycle_cell_unique hi hj hci hcj (hq.trans hprev)
  exact absurd ((place_eq_iff hcj).mpr ⟨h.ci, h.cj⟩) (by omega)

theorem onFirstCycles_succ_iff {k : Nat} (h : u.AtCycle k) (hk : k < u.numCycles) (c : Nat × Nat) :
    OnFirstCycles u.numBlocks (k + 1) c ↔ OnFirstCycles u.numBlocks k c ∨ u.OnCycle c := by
  obtain ⟨hci, hcj⟩ := h.inRange hk
  constructor
  · rintro ⟨i, hi, j, hj, p, hlt, hp⟩
    rcases Nat.lt_succ_iff_lt_or_eq.mp hlt with hbefore | hnow
    · exact .inl ⟨i, hi, j, hj, p, hbefore, hp⟩
    · obtain ⟨hdiv, hmod⟩ := (place_eq_iff hj).mp hnow
      refine .inr ⟨p, ?_⟩
      rwa [State.cycleCell, h.ci, h.cj, ← hdiv, ← hmod]
  · rintro (⟨i, hi, j, hj, p, hlt, hp⟩ | ⟨p, hp⟩)
    · exact ⟨i, hi, j, hj, p, by omega, hp⟩
    · have hplace := (place_eq_iff hcj).mpr ⟨h.ci, h.cj⟩
      exact ⟨_, hci, _, hcj, p, by omega, hp⟩

/-- The steps of one 4-cycle take phase 1 one cycle further. -/
theorem PhaseOne.cycleDone {k : Nat} (hflat : s.FlatMatrix) (h : PhaseOne s u k) (hat : u.AtCycle k) (hk : k < s.numCycles) :
    PhaseOne s u.cycleDone (k + 1) := by
  have hn : u.numBlocks = s.numBlocks := numBlocks_of_frame h.frame
  have hk' : k < u.numCycles := by rwa [State.numCycles, hn]
  have hgrid := hat.cellInGrid hk'
  have hflat' := hflat.of_frame h.frame
  refine ⟨(frame_eq_of_place_eq u.cycleDone_place).trans h.frame, ?relocated, fun b hb => ?outside⟩
  case relocated =>
    refine (h.relocated.trans (relocated_cycleDone hflat' hgrid hat.row) hn fun c _ _ hc => ?_).congr fun c _ => ?_
    · rw [← hn]
      exact not_onFirstCycles_cameFrom hat hk' hc
    · rw [← hn]
      exact (onFirstCycles_succ_iff hat hk' c).symm
  case outside =>
    have hfootprint : u.matrixFootprint = s.matrixFootprint :=
      eq_of_frame_eq State.matrixFootprint (fun _ => rfl) h.frame
    refine (State.readByte_cycleDone fun p hp => hb ?_).trans (h.outside b hb)
    obtain ⟨hrow, hcolumn⟩ := hgrid.cycleCell p
    exact hfootprint ▸ State.mem_matrixFootprint_of_block hflat'.check hrow hcolumn hp

/-- After the `k`-th 4-cycle comes the next one, or block 0 of phase 2 (R84, R89). -/
theorem atCycle_nextCycle {k : Nat} (haw : u.aw ≤ 64) (hk : k < u.numCycles)
    (hci : u.ci.toNat = k / (u.numBlocks / 2)) (hcj : u.cj.toNat = k % (u.numBlocks / 2)) :
    (k + 1 < u.numCycles → (nextCycle u).AtCycle (k + 1)) ∧ (k + 1 = u.numCycles → (nextCycle u).AtBlock 0) := by
  have hlt := u.numBlocks_lt
  rw [State.numCycles] at hk ⊢
  have hpos : 0 < u.numBlocks / 2 := Nat.pos_of_ne_zero fun h0 => by simp [h0] at hk
  have hrange : k / (u.numBlocks / 2) < (u.numBlocks + 1) / 2 := (Nat.div_lt_iff_lt_mul hpos).mpr hk
  rcases nextPlace_cases hk with ⟨hcolumn, hdiv, hmod, hmore⟩ | ⟨hcolumn, hdiv, hmod, hmore⟩
  · have hnext := nextCycle_of_next_column (s := u) (by omega) (by omega)
    have hcj' : (u.cj + 1).toNat = u.cj.toNat + 1 := toNat_add_one_of_lt (n := u.numBlocks) (by omega) (by omega)
    refine ⟨fun _ => ?_, fun hend => by omega⟩
    rw [hnext]
    exact ⟨rfl, rfl, hci.trans hdiv.symm, (hcj'.trans (by omega)).trans hmod.symm⟩
  · refine ⟨fun hgo => ?_, fun hend => ?_⟩
    · have hrow := hmore.mpr hgo
      have hci' : (u.ci + 1).toNat = u.ci.toNat + 1 := toNat_add_one_of_lt (n := u.numBlocks) (by omega) (by omega)
      rw [nextCycle_of_next_row (by omega) (by omega)]
      exact ⟨rfl, rfl, (hci'.trans (by omega)).trans hdiv.symm, hmod.symm⟩
    · have hrow : ¬ k / (u.numBlocks / 2) + 1 < (u.numBlocks + 1) / 2 := fun hrow => by
        have := hmore.mp hrow
        omega
      rw [nextCycle_of_last (by omega) (by omega)]
      exact atBlock_enterBlock (s := { u with ph := .inBlock }) haw (Nat.zero_div _).symm (Nat.zero_mod _).symm

theorem State.MatrixReady.cycleReady {k : Nat} (h : u.MatrixReady) (hat : u.AtCycle k) (hk : k < u.numCycles) :
    u.CycleReady .rotmat :=
  ⟨.inr rfl, h.decodes, h.unscheduled, fun kind p _ hr => h.cell_accepted kind ((hat.cellInGrid hk).cycleCell p) hr⟩

/-- One 4-cycle of `ROTMAT`: 512 steps. -/
theorem stepsTo_phaseOne_cycle {k : Nat} (hready : s.MatrixReady) (h : PhaseOne s u k) (hat : u.AtCycle k)
    (hk : k < s.numCycles) :
    ∃ v, stepsTo 512 u v ∧ PhaseOne s v (k + 1) ∧ (k + 1 < s.numCycles → v.AtCycle (k + 1)) ∧
      (k + 1 = s.numCycles → v.AtBlock 0) := by
  have hreadyU := hready.of_frame h.frame
  have hn : u.numCycles = s.numCycles := eq_of_frame_eq State.numCycles (fun _ => rfl) h.frame
  have hkU : k < u.numCycles := hn ▸ hk
  have hdone := h.cycleDone hready.flat hat hk
  have hplace := u.cycleDone_place
  have hblocks := numBlocks_of_place hplace
  have hcycles : u.cycleDone.numCycles = s.numCycles := eq_of_frame_eq State.numCycles (fun _ => rfl) hdone.frame
  have hci := eq_of_place_eq State.ci (fun _ => rfl) hplace
  have hcj := eq_of_place_eq State.cj (fun _ => rfl) hplace
  have hpos := atCycle_nextCycle (u := u.cycleDone) (k := k) (hready.of_frame hdone.frame).width (by rwa [hcycles])
    (by rw [hci, hblocks]; exact hat.ci) (by rw [hcj, hblocks]; exact hat.cj)
  rw [hcycles] at hpos
  have hrun := stepsTo_cycle (hreadyU.cycleReady hat hkU) hat.fsm hat.row
  rw [afterCycle_rotmat] at hrun
  exact ⟨_, hrun, hdone.of_exposed (nextCycle_exposed _), hpos.1, hpos.2⟩

/-- Phase 1, the first `k` 4-cycles. -/
theorem stepsTo_phaseOne (hready : s.MatrixReady) (hphase : PhaseOne s u 0) (hat : u.AtCycle 0)
    (hcycles : 0 < s.numCycles) {k : Nat} (hk : k ≤ s.numCycles) :
    ∃ v, stepsTo (512 * k) u v ∧ PhaseOne s v k ∧ (k < s.numCycles → v.AtCycle k) ∧ (k = s.numCycles → v.AtBlock 0) := by
  induction k with
  | zero => exact ⟨u, stepsTo_zero u, hphase, fun _ => hat, fun h => by omega⟩
  | succ k ih =>
    obtain ⟨v, hrun, hphaseV, hatV, -⟩ := ih (by omega)
    obtain ⟨w, hcycle, hnext⟩ := stepsTo_phaseOne_cycle hready hphaseV (hatV (by omega)) (by omega)
    exact ⟨w, stepsTo_trans hrun hcycle, hnext⟩

/-- Relocating every 4-cycle relocates every block: the centre of an odd grid comes from itself (R85, R89). -/
theorem PhaseOne.cellWord_eq (h : PhaseOne s u s.numCycles) {c : Nat × Nat} (hc : s.InGrid c) {r : Nat} (hr : r < 64) :
    u.cellWord c r = s.cellWord (cameFrom s.numBlocks c) r := by
  obtain ⟨hrow, hcolumn⟩ := hc
  by_cases hcentre : 2 * c.1 + 1 = s.numBlocks ∧ 2 * c.2 + 1 = s.numBlocks
  · have hfixed : cameFrom s.numBlocks c = c :=
      Prod.ext (by simp only [cameFrom]; omega) (by simp only [cameFrom]; omega)
    by_cases hon : OnFirstCycles s.numBlocks s.numCycles c
    · exact h.relocated.moved c ⟨hrow, hcolumn⟩ r hr hon
    · rw [h.relocated.kept c ⟨hrow, hcolumn⟩ r hr hon, hfixed]
  · refine h.relocated.moved c ⟨hrow, hcolumn⟩ r hr ?_
    obtain ⟨i, hi, j, hj, hp⟩ :=
      exists_cycleCoords_iff_inPhaseOneImage.mpr (inPhaseOneImage_phaseOnePlace hrow hcolumn hcentre)
    refine ⟨i, hi, j, hj, _, ?_, hp⟩
    have hlast : (i + 1) * (s.numBlocks / 2) ≤ s.numCycles := Nat.mul_le_mul_right _ hi
    rw [Nat.add_mul, Nat.one_mul] at hlast
    omega

end Sys2Proof.Machine
end

section
/-! Phase 2 of `ROTMAT` (R86): what holds after the first `k` blocks, and where the last one leads. -/

namespace Sys2Proof.Machine

variable {s t u : State}

/-- The state `u` in which `ROTMAT` has rotated, in place, the first `k` blocks of `s`, row by row of the grid. -/
structure PhaseTwo (s u : State) (k : Nat) : Prop where
  frame : u.frame = s.frame
  turned : ∀ c, s.InGrid c → ∀ r < 64, c.1 * s.numBlocks + c.2 < k →
    u.cellWord c r = turnedWord .rotmat (s.cellWord c) r
  kept : ∀ c, s.InGrid c → ∀ r < 64, ¬ c.1 * s.numBlocks + c.2 < k → u.cellWord c r = s.cellWord c r
  outside : ∀ b, b ∉ s.matrixFootprint → u.readByte b = s.readByte b

theorem phaseTwo_zero (s : State) : PhaseTwo s s 0 :=
  ⟨rfl, fun _ _ _ _ h => absurd h (Nat.not_lt_zero _), fun _ _ _ _ _ => rfl, fun _ _ => rfl⟩

theorem PhaseTwo.of_exposed {k : Nat} (h : PhaseTwo s u k) (hexposed : t.exposed = u.exposed) : PhaseTwo s t k := by
  have hword := cellWord_of_exposed hexposed
  refine ⟨(frame_eq_of_exposed_eq hexposed).trans h.frame, ?_, ?_, fun b hb => ?_⟩
  · rw [hword]; exact h.turned
  · rw [hword]; exact h.kept
  · exact (congrFun (readByte_of_exposed hexposed) b).trans (h.outside b hb)

/-- The current block's cell of the grid. -/
abbrev State.currentCell (s : State) : Nat × Nat := (s.ci.toNat, s.cj.toNat)

theorem State.AtBlock.inGrid {k : Nat} (h : u.AtBlock k) (hk : k < u.numBlocks * u.numBlocks) : u.InGrid u.currentCell := by
  have hpos : 0 < u.numBlocks := Nat.pos_of_ne_zero fun h0 => by simp [h0] at hk
  refine ⟨?_, ?_⟩
  · exact h.ci.trans_lt ((Nat.div_lt_iff_lt_mul hpos).mpr hk)
  · exact h.cj.trans_lt (Nat.mod_lt _ hpos)

/-- The rows of the current block are the words of its cell. -/
theorem State.AtBlock.rowAddr_eq {k : Nat} (h : u.AtBlock k) : u.rowAddr u.ba.toNat = u.cellAddr u.currentCell := by
  rw [h.ba]
  rfl

/-- The words of the matrix after the steps of a block: those of the block are turned, the others stay. -/
theorem State.AtBlock.cellWord_blockDone {k : Nat} (h : u.AtBlock k) (hk : k < u.numBlocks * u.numBlocks)
    (hflat : u.FlatMatrix) {c : Nat × Nat} (hc : u.InGrid c) {r : Nat} (hr : r < 64) :
    (u.blockDone .rotmat).cellWord c r =
      if c = u.currentCell then turnedWord .rotmat (u.cellWord c) r else u.cellWord c r := by
  have hcell := h.inGrid hk
  have haddr : (u.blockDone .rotmat).cellAddr c r = u.cellAddr c r :=
    eq_of_place_eq (fun s => s.cellAddr c r) (fun _ => rfl) (u.blockDone_place .rotmat)
  rw [State.cellWord, haddr]
  split
  · next heq =>
    have hlies : u.blockLiesFlat u.ba.toNat := by
      rw [h.ba]
      exact hflat.blockLiesFlat (p := u.currentCell) hcell
    have hrow := State.memRead_blockDone_row hflat.width hlies .rotmat hr
    rw [State.blockWord, h.rowAddr_eq, ← heq] at hrow
    exact hrow
  · next hne =>
    have hapart (q : Nat) (hq : q < 64) : u.Apart (u.cellAddr c r) (u.cellAddr u.currentCell q) :=
      hflat.cells_apart hc hcell hr hq fun heq => hne heq.1
    rw [State.memRead_blockDone, h.rowAddr_eq, State.memRead_writeRows_of_apart hapart, State.cellWord]

/-- The steps of one block take phase 2 one block further. -/
theorem PhaseTwo.blockDone {k : Nat} (hflat : s.FlatMatrix) (h : PhaseTwo s u k) (hat : u.AtBlock k)
    (hk : k < s.numBlocks * s.numBlocks) : PhaseTwo s (u.blockDone .rotmat) (k + 1) := by
  have hn : u.numBlocks = s.numBlocks := numBlocks_of_frame h.frame
  have hkU : k < u.numBlocks * u.numBlocks := by rwa [hn]
  have hflatU := hflat.of_frame h.frame
  have hin {c : Nat × Nat} (hc : s.InGrid c) : u.InGrid c := by rwa [State.InGrid, hn]
  have hnumber {c : Nat × Nat} (hc : s.InGrid c) : c.1 * s.numBlocks + c.2 = k ↔ c = u.currentCell := by
    rw [place_eq_iff hc.2, Prod.ext_iff, ← hn, ← hat.ci, ← hat.cj]
  refine ⟨(frame_eq_of_place_eq (u.blockDone_place _)).trans h.frame, fun c hc r hr hlt => ?turned,
    fun c hc r hr hge => ?kept, fun b hb => ?outside⟩
  case turned =>
    rw [hat.cellWord_blockDone hkU hflatU (hin hc) hr]
    by_cases hnow : c = u.currentCell
    · rw [if_pos hnow]
      exact turnedWord_congr (fun q hq => h.kept c hc q hq (by have := (hnumber hc).mpr hnow; omega)) _ r
    · have hne := (hnumber hc).not.mpr hnow
      rw [if_neg hnow, h.turned c hc r hr (by omega)]
  case kept =>
    have hne : c ≠ u.currentCell := fun hnow => hge (by have := (hnumber hc).mpr hnow; omega)
    rw [hat.cellWord_blockDone hkU hflatU (hin hc) hr, if_neg hne, h.kept c hc r hr (by omega)]
  case outside =>
    refine (State.readByte_blockDone_outside .rotmat fun r hr g hg heq => hb ?_).trans (h.outside b hb)
    obtain ⟨hrow, hcolumn⟩ := hat.inGrid hkU
    have hfootprint : u.matrixFootprint = s.matrixFootprint :=
      eq_of_frame_eq State.matrixFootprint (fun _ => rfl) h.frame
    rw [hat.rowAddr_eq] at heq
    exact hfootprint ▸ State.mem_matrixFootprint_of_block hflatU.check hrow hcolumn
      (State.mem_blockFootprint.mpr ⟨r, hr, g, hg, heq⟩)

/-- After the `k`-th block comes the next one, or the end of the command (R86, R98). -/
theorem atBlock_nextBlock {k : Nat} (haw : u.aw ≤ 64) (hk : k < u.numBlocks * u.numBlocks)
    (hci : u.ci.toNat = k / u.numBlocks) (hcj : u.cj.toNat = k % u.numBlocks) :
    (k + 1 < u.numBlocks * u.numBlocks → (nextBlock u).AtBlock (k + 1)) ∧
    (k + 1 = u.numBlocks * u.numBlocks →
      nextBlock u = raise .none { u with ci := u.ci + 1, cj := 0 }) := by
  have hlt := u.numBlocks_lt
  have hpos : 0 < u.numBlocks := Nat.pos_of_ne_zero fun h0 => by simp [h0] at hk
  have hrange : k / u.numBlocks < u.numBlocks := (Nat.div_lt_iff_lt_mul hpos).mpr hk
  rcases nextPlace_cases hk with ⟨hcolumn, hdiv, hmod, hmore⟩ | ⟨hcolumn, hdiv, hmod, hmore⟩
  · have hcj' : (u.cj + 1).toNat = u.cj.toNat + 1 := toNat_add_one_of_lt (n := u.numBlocks) (by omega) (by omega)
    refine ⟨fun _ => ?_, fun hend => by omega⟩
    rw [nextBlock_of_next_column (by omega) (by omega)]
    exact atBlock_enterBlock haw (hci.trans hdiv.symm) ((hcj'.trans (by omega)).trans hmod.symm)
  · refine ⟨fun hgo => ?_, fun hend => ?_⟩
    · have hrow := hmore.mpr hgo
      have hci' : (u.ci + 1).toNat = u.ci.toNat + 1 := toNat_add_one_of_lt (n := u.numBlocks) (by omega) (by omega)
      rw [nextBlock_of_next_row (by omega) (by omega)]
      exact atBlock_enterBlock haw ((hci'.trans (by omega)).trans hdiv.symm) hmod.symm
    · have hrow : ¬ k / u.numBlocks + 1 < u.numBlocks := fun hrow => by
        have := hmore.mp hrow
        omega
      exact nextBlock_of_last (by omega) (by omega)

theorem State.MatrixReady.blockReady {k : Nat} (h : u.MatrixReady) (hat : u.AtBlock k)
    (hk : k < u.numBlocks * u.numBlocks) : u.BlockReady .rotmat := by
  refine ⟨.inr (.inr rfl), h.decodes, h.unscheduled, fun kind r hr => ?_⟩
  rw [hat.rowAddr_eq]
  exact h.cell_accepted kind (hat.inGrid hk) hr

/-- One block of `ROTMAT`: 129 steps. -/
theorem stepsTo_phaseTwo_block {k : Nat} (hready : s.MatrixReady) (h : PhaseTwo s u k) (hat : u.AtBlock k)
    (hk : k < s.numBlocks * s.numBlocks) :
    ∃ v, stepsTo 129 u v ∧ PhaseTwo s v (k + 1) ∧ (k + 1 < s.numBlocks * s.numBlocks → v.AtBlock (k + 1)) ∧
      (k + 1 = s.numBlocks * s.numBlocks → ∃ w, v = raise .none w) := by
  have hn : u.numBlocks = s.numBlocks := numBlocks_of_frame h.frame
  have hkU : k < u.numBlocks * u.numBlocks := by rwa [hn]
  have hdone := h.blockDone hready.flat hat hk
  have hplace := u.blockDone_place .rotmat
  have hblocks := numBlocks_of_place hplace
  have hci := eq_of_place_eq State.ci (fun _ => rfl) hplace
  have hcj := eq_of_place_eq State.cj (fun _ => rfl) hplace
  have hpos := atBlock_nextBlock (u := u.blockDone .rotmat) (k := k) (hready.of_frame hdone.frame).width
    (by rwa [hblocks]) (by rw [hci, hblocks]; exact hat.ci) (by rw [hcj, hblocks]; exact hat.cj)
  rw [hblocks, hn] at hpos
  have hrun := stepsTo_block ((hready.of_frame h.frame).blockReady hat hkU) hat.fsm hat.row
  rw [afterStore_rotmat] at hrun
  exact ⟨_, hrun, hdone.of_exposed (nextBlock_exposed _), hpos.1, fun hend => ⟨_, hpos.2 hend⟩⟩

/-- Phase 2, the first `k` blocks. -/
theorem stepsTo_phaseTwo (hready : s.MatrixReady) (hat : s.AtBlock 0) {k : Nat} (hk : k < s.numBlocks * s.numBlocks) :
    ∃ v, stepsTo (129 * (k + 1)) s v ∧ PhaseTwo s v (k + 1) ∧ (k + 1 < s.numBlocks * s.numBlocks → v.AtBlock (k + 1)) ∧
      (k + 1 = s.numBlocks * s.numBlocks → ∃ w, v = raise .none w) := by
  induction k with
  | zero => exact stepsTo_phaseTwo_block hready (phaseTwo_zero s) hat hk
  | succ k ih =>
    obtain ⟨u, hrun, hphase, hatU, -⟩ := ih (by omega)
    obtain ⟨v, hblock, hnext⟩ := stepsTo_phaseTwo_block hready hphase (hatU hk) hk
    exact ⟨v, stepsTo_trans hrun hblock, hnext⟩

end Sys2Proof.Machine
end

section
/-! The statement about whole runs of `ROTMAT` of 43_matrix_driver.md. -/

namespace Sys2Proof.Machine

variable {s u : State}

/-- From the issue of `ROTMAT` to the start of phase 2: each block of the grid comes from where a clockwise rotation of the
grid takes it (R84, R88, R89). -/
theorem stepsTo_blocks_relocated (hcheck : s.fsm = .check) (hready : s.MatrixReady) :
    ∃ u, stepsTo (1 + 512 * s.numCycles) s u ∧ u.AtBlock 0 ∧ u.frame = s.frame ∧
      (∀ c, s.InGrid c → ∀ r < 64, u.cellWord c r = s.cellWord (cameFrom s.numBlocks c) r) ∧
      ∀ b, b ∉ s.matrixFootprint → u.readByte b = s.readByte b := by
  have hmatrix := hready.flat.check
  have hpos := (State.dimN_eq_of_check hmatrix).2
  have hfirst : stepsTo 1 s (startMatrix s) :=
    stepsTo_of_exec (by simp [hcheck]) hready.decodes hready.unscheduled (exec_rotmat_check hcheck)
  have hstart : PhaseOne s (startMatrix s) 0 := phaseOne_zero (startMatrix_exposed s)
  have hphaseOne : ∃ u, stepsTo (512 * s.numCycles) (startMatrix s) u ∧ PhaseOne s u s.numCycles ∧ u.AtBlock 0 := by
    by_cases hone : s.numBlocks = 1
    · have hnone : s.numCycles = 0 := by rw [State.numCycles, hone]
      rw [hnone]
      refine ⟨_, stepsTo_zero _, hstart, ?_⟩
      rw [startMatrix_of_one_block hmatrix hone]
      exact atBlock_enterBlock (s := { s with ph := .inBlock }) hready.width (Nat.zero_div _).symm (Nat.zero_mod _).symm
    · have hcycles : 0 < s.numCycles := Nat.mul_pos (by omega) (by omega)
      have hat : (startMatrix s).AtCycle 0 := by
        rw [startMatrix_of_many_blocks hmatrix hone]
        exact ⟨rfl, rfl, (Nat.zero_div _).symm, (Nat.zero_mod _).symm⟩
      obtain ⟨u, hrun, hphase, -, hblock⟩ := stepsTo_phaseOne hready hstart hat hcycles le_rfl
      exact ⟨u, hrun, hphase, hblock rfl⟩
  obtain ⟨u, hrun, hphase, hat⟩ := hphaseOne
  exact ⟨u, stepsTo_trans hfirst hrun, hat, hphase.frame, fun c hc r hr => hphase.cellWord_eq hc hr, hphase.outside⟩

/-- Settles O54: phase 1 takes each block to its place, phase 2 turns it there; together bit `(i, j)` comes from column `i` of
row `N - 1 - j` (R90). -/
theorem rotmatRotatesMatrix : Obligations.RotmatRotatesMatrix := by
  intro s hissued hmatrix hwidth haw haccepted hflat
  obtain ⟨hcheck, -, hop, hnil⟩ := hissued
  have hd : decode s.op = .ok .rotmat := hop ▸ decode_eq_ok_iff_eq_encode.mpr rfl
  have hfootprint := State.footprint_of_matrix hd hmatrix
  obtain ⟨hdim, hpos⟩ := State.dimN_eq_of_check hmatrix
  have hready : s.MatrixReady :=
    ⟨hd, hnil, ⟨hmatrix, by omega, hflat⟩, haw, fun kind a ha => haccepted kind a (hfootprint ▸ ha)⟩
  obtain ⟨u, hrunU, hat, hframeU, hmoved, houtsideU⟩ := stepsTo_blocks_relocated hcheck hready
  have hn : u.numBlocks = s.numBlocks := numBlocks_of_frame hframeU
  have hblocks : 0 < u.numBlocks * u.numBlocks := by rw [hn]; exact Nat.mul_pos hpos hpos
  obtain ⟨v, hrunV, hphase, -, hend⟩ :=
    stepsTo_phaseTwo (hready.of_frame hframeU) hat (k := u.numBlocks * u.numBlocks - 1) (by omega)
  rw [Nat.sub_add_cancel hblocks] at hrunV hphase hend
  obtain ⟨w, rfl⟩ := hend rfl
  have hframe : w.frame = s.frame := (raise_frame .none w).symm.trans (hphase.frame.trans hframeU)
  have hschedule : w.schedule = [] := (eq_of_frame_eq State.schedule (fun _ => rfl) hframe).trans hnil
  refine ⟨w.ended .none, ?run, State.ended_endsFrom hframe .none, fun i hi j hj => ?bits, fun a ha => ?outside⟩
  case run =>
    have hrun := stepsTo_trans (stepsTo_trans hrunU hrunV) (stepsTo_ended hschedule .none)
    have hcount : 1 + 512 * s.numCycles + 129 * (u.numBlocks * u.numBlocks) + 1 =
        2 + 512 * s.numCycles + 129 * (s.numBlocks * s.numBlocks) := by
      rw [hn]
      omega
    rwa [hcount] at hrun
  case bits =>
    set n := s.numBlocks with hnDef
    have hi' : i = 64 * (i / 64) + i % 64 := (Nat.div_add_mod i 64).symm
    have hj' : j = 64 * (j / 64) + j % 64 := (Nat.div_add_mod j 64).symm
    have hcell : s.InGrid (i / 64, j / 64) := ⟨by show i / 64 < n; omega, by show j / 64 < n; omega⟩
    have hcellU : u.InGrid (i / 64, j / 64) := by rwa [State.InGrid, hn]
    have hr : i % 64 < 64 := Nat.mod_lt _ (by decide)
    have hc : j % 64 < 64 := Nat.mod_lt _ (by decide)
    have hsource : s.dimN.toNat - 1 - j = 64 * (n - 1 - j / 64) + (63 - j % 64) := by
      have := hcell.2
      omega
    have hnumber : i / 64 * u.numBlocks + j / 64 < u.numBlocks * u.numBlocks := by
      have hlast : (i / 64 + 1) * u.numBlocks ≤ u.numBlocks * u.numBlocks := Nat.mul_le_mul_right _ hcellU.1
      have := hcellU.2
      rw [Nat.add_mul, Nat.one_mul] at hlast
      omega
    have haddr : w.blockAddr = s.blockAddr := eq_of_frame_eq State.blockAddr (fun _ => rfl) hframe
    calc (w.ended .none).matrixBit i j
        = w.matrixBit (64 * (i / 64) + i % 64) (64 * (j / 64) + j % 64) := by rw [← hi', ← hj']; rfl
      _ = (w.cellWord (i / 64, j / 64) (i % 64)).getLsbD (j % 64 ^^^ 7) := by
          rw [← State.blockBit_blockAddr, ← State.blockBit_eq_cellWord w (i / 64, j / 64) _ hc]
      _ = (turnedWord .rotmat (u.cellWord (i / 64, j / 64)) (i % 64)).getLsbD (j % 64 ^^^ 7) := by
          rw [← hphase.turned _ hcellU _ hr hnumber]
          rfl
      _ = (u.cellWord (i / 64, j / 64) (63 - j % 64)).getLsbD (i % 64 ^^^ 7) := by
          rw [getLsbD_turnedWord_of_passes (by decide) _ hr hc]
      _ = (s.cellWord (n - 1 - j / 64, i / 64) (63 - j % 64)).getLsbD (i % 64 ^^^ 7) := by
          rw [hmoved _ hcell _ (by omega)]
          rfl
      _ = s.matrixBit (64 * (n - 1 - j / 64) + (63 - j % 64)) (64 * (i / 64) + i % 64) := by
          rw [← State.blockBit_blockAddr, ← State.blockBit_eq_cellWord s (n - 1 - j / 64, i / 64) _ hr]
      _ = s.matrixBit (s.dimN.toNat - 1 - j) i := by rw [← hsource, ← hi']
  case outside =>
    rw [hfootprint] at ha
    have hfootprintU : u.matrixFootprint = s.matrixFootprint :=
      eq_of_frame_eq State.matrixFootprint (fun _ => rfl) hframeU
    exact (hphase.outside a (hfootprintU ▸ ha)).trans (houtsideU a ha)

end Sys2Proof.Machine
end
